-- ==== Sys2Proof/Word.lean ====
section
/-! DEFINITION. The four-element arrays of R26. The block's words are plain bit vectors of the widths the spec gives:
8 bits for a pin identifier or a byte of an entry (R14, R56), 16 for an entry (R56), 32 for `SPEED`, the counters and
`ARG` (R6, R48), 36 for a command word (R48), 35 for a configuration word (R55). -/

namespace Sys2Proof

/-- Four like things indexed by lane number (R26): pin identifiers, lane bytes, duties. -/
structure Lanes (α : Type) where
  lane0 : α
  lane1 : α
  lane2 : α
  lane3 : α
deriving DecidableEq, Repr

/-- The element of lane `k`. -/
def Lanes.get {α : Type} (l : Lanes α) (k : Fin 4) : α :=
  match k with
  | 0 => l.lane0
  | 1 => l.lane1
  | 2 => l.lane2
  | 3 => l.lane3

/-- The four lanes, lane 0 first. -/
def Lanes.toList {α : Type} (l : Lanes α) : List α := [l.lane0, l.lane1, l.lane2, l.lane3]

/-- The same function applied to each lane. -/
def Lanes.map {α β : Type} (f : α → β) (l : Lanes α) : Lanes β :=
  ⟨f l.lane0, f l.lane1, f l.lane2, f l.lane3⟩

/-- Lane `k` of both, paired. -/
def Lanes.zip {α β : Type} (l : Lanes α) (r : Lanes β) : Lanes (α × β) :=
  ⟨(l.lane0, r.lane0), (l.lane1, r.lane1), (l.lane2, r.lane2), (l.lane3, r.lane3)⟩

end Sys2Proof
end

