-- ==== Sys2Proof/Syntax.lean ====
section
/-! DEFINITION. The three host commands of R49, one constructor per row of spec/opcode_table.json. -/

namespace Sys2Proof

/-- A host command. The operand of each is the 32-bit field `ARG` as it stands in the command word (R48);
how it is read is in Machine/Operands.lean (R50, R51). -/
inductive Instr where
  /-- `STEP`: `ARG` is the signed count (R50). -/
  | step (arg : BitVec 32)
  /-- `SET_SPEED`: `ARG` is the value stored (R51). -/
  | setSpeed (arg : BitVec 32)
  /-- `GET_SPEED`: `ARG` is reserved and ignored (R51); it is kept so that no bit of the word is lost. -/
  | getSpeed (arg : BitVec 32)
deriving DecidableEq, Repr

end Sys2Proof
end

