-- ==== Sys2Proof/Decode.lean ====
section
/-! DEFINITION. The host command word of R48: decoder, encoder, and the decoder's view for the host's table. -/

namespace Sys2Proof

/-- Why a command word names no command. -/
inductive DecodeError where
  /-- `OP` is `0x0` or `0x4` to `0xF` (R53); the block raises `E_ILLEGAL_OP` for it (R102). -/
  | illegalOp (op : BitVec 4)
deriving DecidableEq, Repr

/-- `OP = CW[35:32]` (R48). -/
def opField (cw : BitVec 36) : BitVec 4 := cw.extractLsb' 32 4

/-- `ARG = CW[31:0]` (R48). -/
def argField (cw : BitVec 36) : BitVec 32 := cw.extractLsb' 0 32

/-- The opcode map of R49, total on every command word. -/
def decode (cw : BitVec 36) : Except DecodeError Instr :=
  if opField cw = 0x1#4 then .ok (.step (argField cw))
  else if opField cw = 0x2#4 then .ok (.setSpeed (argField cw))
  else if opField cw = 0x3#4 then .ok (.getSpeed (argField cw))
  else .error (.illegalOp (opField cw))

/-- The operation code of R49. -/
def Instr.op (i : Instr) : BitVec 4 :=
  match i with
  | .step _ => 0x1#4
  | .setSpeed _ => 0x2#4
  | .getSpeed _ => 0x3#4

/-- The `ARG` field of R48. -/
def Instr.arg (i : Instr) : BitVec 32 :=
  match i with
  | .step arg => arg
  | .setSpeed arg => arg
  | .getSpeed arg => arg

/-- The command word `OP, ARG` with `OP` in the more significant bits (R48). -/
def encode (i : Instr) : BitVec 36 := i.op ++ i.arg

/-- The instruction that the decoder reads from an instruction whose bits are `w`, bit 0 the least significant
bit of the one 36-bit word (R48: the word is presented whole). A number with a bit above bit 35 is no command
word (log 18). -/
def decodeTableWord (nbits w : Nat) : Option Instr :=
  if w % 2 ^ nbits < 2 ^ 36 then
    match decode (BitVec.ofNat 36 (w % 2 ^ nbits)) with
    | .ok i => some i
    | .error _ => none
  else none

end Sys2Proof
end

