-- ==== Sys2Proof/Config.lean ====
section
/-! DEFINITION. The implementation parameters of R6. A parameter the spec marks OPEN is an argument of the
model: `Params` holds the four of them, a machine state carries one `Params` that no step writes, and the
machine after reset carries `Config.params`, whose values have no body, so that nothing can be proved of them
(log 1, log 2, log 3). -/

namespace Sys2Proof

/-- `INDEX_POLICY` (R6, R89): whether each `STEP` overwrites the master index or goes on from it. -/
inductive IndexPolicy where
  | restart
  | persist
deriving DecidableEq, Repr, Inhabited

/-- The OPEN parameters of R6. `phaseRom` is `PHASE_ROM` (R61), `dutyMax` is `DUTY_MAX` (R75),
`indexPolicy` is `INDEX_POLICY` (R89) and `speedReset` is `SPEED_RESET` (R17). -/
structure Params where
  phaseRom : Vector (BitVec 16) 16
  dutyMax : Nat
  indexPolicy : IndexPolicy
  speedReset : BitVec 32
deriving DecidableEq, Repr

/-- The sixteen phase-table values, OPEN (R61, U9). -/
opaque Config.phaseRom : Fin 16 → BitVec 16

/-- `DUTY_MAX` less one, OPEN: the spec fixes only `DUTY_MAX ≥ 1` (R6, U10). -/
opaque Config.dutyMaxLessOne : Nat

/-- `INDEX_POLICY`, OPEN (R89, U12). -/
opaque Config.indexPolicy : IndexPolicy

/-- `SPEED_RESET`, OPEN (R17, U11). -/
opaque Config.speedReset : BitVec 32

/-- The pin identifiers `CFG_PIN[0..3]` that the configuration input holds at the reset `State.reset` stands
for; the spec gives a configuration no default pins (R55, log 3). -/
opaque Config.cfgPin : Fin 4 → BitVec 8

/-- The parameters of the machine that `State.reset` describes. -/
def Config.params : Params :=
  { phaseRom := Vector.ofFn Config.phaseRom
    dutyMax := Config.dutyMaxLessOne + 1
    indexPolicy := Config.indexPolicy
    speedReset := Config.speedReset }

/-- The pins of `State.reset`, in the order of the constructor arguments (R14). -/
def Config.cfgPins : Lanes (BitVec 8) :=
  ⟨Config.cfgPin 0, Config.cfgPin 1, Config.cfgPin 2, Config.cfgPin 3⟩

/-- `CFG_MODE` when the configuration names no mode: `SIXTEENTH` (R6, R55). -/
def Config.defaultMode : BitVec 3 := 4#3

/-- `NR_PATTERNS` (R6). -/
def Config.nrPatterns : Nat := 16

/-- `NR_PINS` (R6). -/
def Config.nrPins : Nat := 4

/-- `NR_POS` (R6). -/
def Config.nrPos : Nat := 64

/-- `DUTY_W` (R6): the least `w` with `2 ^ w > DUTY_MAX + 1`. -/
def Config.dutyWidth (dutyMax : Nat) : Nat := Nat.log2 (dutyMax + 1) + 1

end Sys2Proof
end

