-- ==== Sys2Proof/Machine/Types.lean ====
section
/-! DEFINITION. The names the spec gives to modes, phases, directions, commands, faults and events. -/

namespace Sys2Proof.Machine

/-- The stepping modes (R7). -/
inductive StepMode where
  | full
  | half
  | quarter
  | eighth
  | sixteenth
deriving DecidableEq, Repr

/-- The sequencer's phase (R22). -/
inductive Phase where
  | idle
  | emit
  | wait
  | halt
deriving DecidableEq, Repr

/-- The direction of the running `STEP`, the register `DIR` (R24). -/
inductive Direction where
  | forward
  | backward
deriving DecidableEq, Repr

/-- The operation that a `DONE` event names (R11, R54). -/
inductive CommandName where
  | step
  | setSpeed
  | getSpeed
deriving DecidableEq, Repr

/-- The three faults with the information each records (R101). -/
inductive FaultCause where
  /-- `E_ILLEGAL_OP`, with the 36-bit command word (R102). -/
  | illegalOp (cw : BitVec 36)
  /-- `E_MODE`, with `MODE` (R103). -/
  | mode (mode : BitVec 3)
  /-- `E_SPEED`, with `SPEED`, 32 bits signed (R105). -/
  | speed (speed : BitVec 32)
deriving DecidableEq, Repr

/-- The observable events of R11. -/
inductive Event where
  /-- `CFG_OUT(p0, p1, p2, p3)`. -/
  | cfgOut (pins : Lanes (BitVec 8))
  /-- `WRITE4((p0,d0), (p1,d1), (p2,d2), (p3,d3))`, one event (R42). -/
  | write4 (writes : Lanes (BitVec 8 × Nat))
  /-- `DELAY(t)`, `t` in microseconds. -/
  | delay (microseconds : Nat)
  /-- `DONE(op, r)` (R54). -/
  | done (op : CommandName) (result : BitVec 32)
  /-- `FAULT(cause, info)` (R104). -/
  | fault (cause : FaultCause)
deriving DecidableEq, Repr

/-- What arrives at the block from outside at one step, besides a command (log 5). -/
inductive Input where
  /-- Nothing. -/
  | quiet
  /-- A microsecond tick from the platform (R91, R110). -/
  | tick
  /-- A reset with the configuration word on the `CFG` input (R55, R116). -/
  | reset (cfg : BitVec 35)
deriving DecidableEq, Repr

end Sys2Proof.Machine
end

