-- ==== Sys2Proof/Machine/Flags.lean ====
section
/-! DEFINITION. The `STATUS` register (R20). The block has no other flag and no condition code (R21). -/

namespace Sys2Proof.Machine

/-- `STATUS.BUSY`, bit 0. -/
def statusBusy (v : BitVec 8) : Bool := v.getLsbD 0

/-- `STATUS.CFG_ERR`, bit 1. -/
def statusCfgErr (v : BitVec 8) : Bool := v.getLsbD 1

/-- `STATUS.FAULT`, bit 2. -/
def statusFault (v : BitVec 8) : Bool := v.getLsbD 2

/-- Bit 3 of `STATUS`, reserved, reads 0. -/
def statusReserved (v : BitVec 8) : Bool := v.getLsbD 3

/-- `STATUS.FAULT_CAUSE`, bits 7:4. -/
def statusCause (v : BitVec 8) : BitVec 4 := v.extractLsb' 4 4

/-- `STATUS.BUSY <- b`. -/
def setBusy (v : BitVec 8) (b : Bool) : BitVec 8 :=
  (v &&& 0xFE#8) ||| (BitVec.ofBool b).setWidth 8

/-- `STATUS.FAULT <- b`. -/
def setFault (v : BitVec 8) (b : Bool) : BitVec 8 :=
  (v &&& 0xFB#8) ||| ((BitVec.ofBool b).setWidth 8 <<< 2)

/-- `STATUS.FAULT_CAUSE <- c`. -/
def setCause (v : BitVec 8) (c : BitVec 4) : BitVec 8 :=
  (v &&& 0x0F#8) ||| (c.setWidth 8 <<< 4)

/-- The cause code of a fault (R101). -/
def FaultCause.code (c : FaultCause) : BitVec 4 :=
  match c with
  | .illegalOp _ => 1#4
  | .mode _ => 2#4
  | .speed _ => 3#4

/-- What fault entry does to `STATUS`: FAULT 1, FAULT_CAUSE the cause, BUSY 0 (R104). -/
def faultStatus (v : BitVec 8) (c : FaultCause) : BitVec 8 :=
  setCause (setFault (setBusy v false) true) c.code

/-- `STATUS` after reset: `CFG_ERR` is 1 exactly when `CFG_MODE` > 4, all else is 0 (R27, R103). -/
def resetStatus (mode : BitVec 3) : BitVec 8 := if 4 < mode.toNat then 0x02#8 else 0x00#8

end Sys2Proof.Machine
end

