-- ==== Sys2Proof/Machine/Operands.lean ====
section
/-! DEFINITION. How the operand field of a command (R50, R51) and the configuration word (R55) are read. -/

namespace Sys2Proof.Machine

/-- `count = sext(ARG)`, the two's-complement reading in −2^31 .. 2^31 − 1 (R50). -/
def stepCount (arg : BitVec 32) : Int := arg.toInt

/-- `|count|`, exact: −2^31 gives 2^31 (R50, D32), as the 32-bit unsigned value `REM` holds (R23). -/
def sweepCount (count : Int) : BitVec 32 := BitVec.ofNat 32 count.natAbs

/-- `value = ARG`, stored unchanged (R51). -/
def speedValue (arg : BitVec 32) : BitVec 32 := arg

/-- `CFG_PIN[k] = CFG[8k+7:8k]` (R55). -/
def cfgPin (cfg : BitVec 35) (k : Fin 4) : BitVec 8 := cfg.extractLsb' (8 * k.val) 8

/-- The four pins of a configuration word, `pin_a` first (R14, R55). -/
def cfgPins (cfg : BitVec 35) : Lanes (BitVec 8) := ⟨cfgPin cfg 0, cfgPin cfg 1, cfgPin cfg 2, cfgPin cfg 3⟩

/-- `CFG_MODE = CFG[34:32]` (R55). -/
def cfgMode (cfg : BitVec 35) : BitVec 3 := cfg.extractLsb' 32 3

/-- The configuration word of four pins and a mode; one that names no mode has `CFG_MODE` = 4 (R55). -/
def cfgWord (pins : Lanes (BitVec 8)) (mode : Option (BitVec 3)) : BitVec 35 :=
  mode.getD Config.defaultMode ++ pins.lane3 ++ pins.lane2 ++ pins.lane1 ++ pins.lane0

end Sys2Proof.Machine
end

