-- ==== Sys2Proof/Machine/Stride.lean ====
section
/-! DEFINITION. Stride and delay (R81 to R83), master-index arithmetic (R89, R90) and the codes of R7, R22, R24. -/

namespace Sys2Proof.Machine

/-- The ordinal of a mode (R7). -/
def StepMode.ordinal (m : StepMode) : BitVec 3 :=
  match m with
  | .full => 0#3
  | .half => 1#3
  | .quarter => 2#3
  | .eighth => 3#3
  | .sixteenth => 4#3

/-- The mode a 3-bit value stands for; 5, 6 and 7 are not modes (R7, R15). -/
def StepMode.ofBits (b : BitVec 3) : Option StepMode :=
  if b = 0#3 then some .full
  else if b = 1#3 then some .half
  else if b = 2#3 then some .quarter
  else if b = 3#3 then some .eighth
  else if b = 4#3 then some .sixteenth
  else none

/-- The 2-bit code of `PHASE` (R22). -/
def Phase.code (p : Phase) : BitVec 2 :=
  match p with
  | .idle => 0#2
  | .emit => 1#2
  | .wait => 2#2
  | .halt => 3#2

/-- The bit `DIR` (R24). -/
def Direction.bit (d : Direction) : BitVec 1 :=
  match d with
  | .forward => 0#1
  | .backward => 1#1

/-- The direction of a count: backward exactly when it is negative (R84). -/
def directionOf (count : Int) : Direction := if count < 0 then .backward else .forward

/-- The stride `s = 16 >> MODE` (R81), defined for the five modes only. -/
def stride (m : StepMode) : Nat := Config.nrPatterns >>> m.ordinal.toNat

/-- The sweep length `n = 64 / s` (R82). -/
def sweepLen (m : StepMode) : Nat := Config.nrPos / stride m

/-- The per-emission delay `SPEED >>a MODE` in microseconds (R83). -/
def delay (speed : BitVec 32) (m : StepMode) : BitVec 32 := speed.sshiftRight m.ordinal.toNat

/-- The index before the first forward emission from 0: `(64 − s) mod 64` (R18, R84). -/
def lastOfSweep (m : StepMode) : BitVec 6 := BitVec.ofNat 6 ((Config.nrPos - stride m) % Config.nrPos)

/-- The start that acceptance writes to `POS` under `RESTART` (R84, R89). -/
def restartPos (m : StepMode) (d : Direction) : BitVec 6 :=
  match d with
  | .forward => lastOfSweep m
  | .backward => 0#6

/-- The value of `POS` after reset (R18, R27). -/
def resetPos (mode : BitVec 3) : BitVec 6 :=
  match StepMode.ofBits mode with
  | some m => lastOfSweep m
  | none => 0#6

/-- The master index of the next emission, modulo 64 on 6 bits (R90). -/
def nextIndex (m : StepMode) (d : Direction) (pos : BitVec 6) : BitVec 6 :=
  match d with
  | .forward => pos + BitVec.ofNat 6 (stride m)
  | .backward => pos - BitVec.ofNat 6 (stride m)

end Sys2Proof.Machine
end

