-- ==== Sys2Proof/Machine/State.lean ====
section
/-! DEFINITION. The state of the block, the reasons a step can stop, and the state after reset. -/

namespace Sys2Proof.Machine

/-- The state of one block. Every register of R13 has its field; the ROM and the other parameters of R6 are in
`params`, which no step writes; the event trace is that of R41; `requests` and `inputs` are what the outside
presents. -/
structure State where
  /-- The OPEN parameters of R6, the ROM among them (R34, R61), fixed for the block's life (log 1). -/
  params : Params
  /-- `PIN_ID[0..3]` (R14). -/
  pinId : Lanes (BitVec 8)
  /-- `MODE` (R15). -/
  mode : BitVec 3
  /-- `SPEED`, signed (R17). -/
  speed : BitVec 32
  /-- `POS`, the master index (R18). -/
  pos : BitVec 6
  /-- `DUTY_OUT[0..3]` (R19); each fits `DUTY_W` bits (log 10). -/
  dutyOut : Lanes Nat
  /-- `STATUS` (R20). -/
  status : BitVec 8
  /-- `PHASE` (R22). -/
  phase : Phase
  /-- `REM` (R23). -/
  rem : BitVec 32
  /-- `J` (R23). -/
  j : BitVec 6
  /-- `DIR` (R24). -/
  dir : Direction
  /-- `DLY` (R24). -/
  dly : BitVec 32
  /-- `TMR` (R24, R111). -/
  tmr : BitVec 32
  /-- The event trace, oldest event first (R41, log 12). -/
  trace : List Event
  /-- The command port: the words the host has yet to have accepted, the presented one first (R52, log 4). -/
  requests : List (BitVec 36)
  /-- The model's own: what arrives at each coming step (log 5). -/
  inputs : List Input
deriving DecidableEq, Repr

/-- Why the machine stops. The three faults of the block itself (R101) are not here: the spec describes their
entry, so they are next states (R104). -/
inductive Fault where
  /-- Raised by `STEP`, by the EMIT step and by the end of a wait when the stride is needed and `MODE` holds no
  mode (R81 defines the stride only for `MODE` ≤ 4). Safe: it stops where the spec gives no value, and no run
  reaches it, since with `MODE` > 4 `CFG_ERR` is 1 and every `STEP` takes `E_MODE` first (R103; log 11). -/
  | strideUndefined
deriving DecidableEq, Repr

/-- Why the model gives no meaning. -/
inductive Refusal where
  /-- Raised by an arm of `exec` whose instruction has no meaning yet. Safe: it says nothing. No arm raises it
  now. -/
  | notModelled (mnemonic : String)
deriving DecidableEq, Repr

/-- The machine right after reset (R27, R116, R117) with the parameters `Config.params`, the pins
`Config.cfgPins` and a configuration that names no mode (log 3): the `CFG_OUT` of the reset is in the trace, no
command is presented and nothing is due from outside. -/
def State.reset : State :=
  { params := Config.params
    pinId := Config.cfgPins
    mode := Config.defaultMode
    speed := Config.speedReset
    pos := resetPos Config.defaultMode
    dutyOut := ⟨0, 0, 0, 0⟩
    status := resetStatus Config.defaultMode
    phase := .idle
    rem := 0#32
    j := 0#6
    dir := .forward
    dly := 0#32
    tmr := 0#32
    trace := [.cfgOut Config.cfgPins]
    requests := []
    inputs := [] }

end Sys2Proof.Machine
end

