-- ==== Sys2Proof/Machine/IndexDecoder.lean ====
section
/-! DEFINITION. Unit (a) of R2: the phase-table ROM and the index decoder (R61 to R68). -/

namespace Sys2Proof.Machine

/-- A decoded master index (R57). -/
structure DecodedIndex where
  /-- `p`, the pattern index. -/
  pattern : BitVec 4
  /-- `o`, the pin offset. -/
  offset : BitVec 2
deriving DecidableEq, Repr

/-- `DECODE(i)`: `p = i[3:0]`, `o = i[5:4]` (R57, R62). -/
def decodeIndex (i : BitVec 6) : DecodedIndex :=
  { pattern := i.extractLsb' 0 4, offset := i.extractLsb' 4 2 }

/-- The defensive reduction of a wider index, signed or not: the non-negative remainder mod 64 (R63). -/
def reduceIndex (v : Int) : BitVec 6 := BitVec.ofInt 6 v

/-- The decoder driven by a value wider than 6 bits (R63). -/
def decodeWide (v : Int) : DecodedIndex := decodeIndex (reduceIndex v)

/-- `ROM[p]` (R35, R64): the whole 16-bit entry, no side effect, no index outside 0..15. -/
def romRead (rom : Vector (BitVec 16) 16) (p : BitVec 4) : BitVec 16 := rom[p.toNat]'p.isLt

/-- `H = E[15:8]` (R37, R64). -/
def entryHigh (e : BitVec 16) : BitVec 8 := e.extractLsb' 8 8

/-- `L = E[7:0]` (R37, R64). -/
def entryLow (e : BitVec 16) : BitVec 8 := e.extractLsb' 0 8

end Sys2Proof.Machine
end

