-- ==== Sys2Proof/Machine/Unpacker.lean ====
section
/-! DEFINITION. Unit (b) of R2: the duty-cycle unpacker and the pin-output mux (R69 to R79). -/

namespace Sys2Proof.Machine

/-- `PLACE(E)`: the entry in bits 31:16 (R69). -/
def place (e : BitVec 16) : BitVec 32 := e.setWidth 32 <<< 16

/-- `SHIFT(W0, o)`: down by whole bytes, logical (R70). -/
def shiftDown (w0 : BitVec 32) (o : BitVec 2) : BitVec 32 := w0 >>> (8 * o.toNat)

/-- `WRAP(W0, W1, o)`: for `o` = 3 the byte shifted out comes back in lane 3 (R71). -/
def wrapBack (w0 w1 : BitVec 32) (o : BitVec 2) : BitVec 32 := if o = 3#2 then w1 ||| (w0 <<< 8) else w1

/-- `PLACE`, `SHIFT` and `WRAP` in turn: the word that is cut into lanes (R72). -/
def unpackWord (e : BitVec 16) (o : BitVec 2) : BitVec 32 :=
  wrapBack (place e) (shiftDown (place e) o) o

/-- `LANES(W)`: lane `k` is `W[8k+7:8k]` (R38, R73). -/
def laneBytes (w : BitVec 32) : Lanes (BitVec 8) :=
  ⟨w.extractLsb' 0 8, w.extractLsb' 8 8, w.extractLsb' 16 8, w.extractLsb' 24 8⟩

/-- `SCALE(b)`: exact product, floor division by 255 (R75). The result is passed on unchanged even when it is
`DUTY_MAX + 1` (R76). -/
def scale (dutyMax : Nat) (b : BitVec 8) : Nat := b.toNat * (dutyMax + 1) / 255

/-- `MUX`: lane `k` drives pin `PIN_ID[k]` (R77). -/
def mux (pins : Lanes (BitVec 8)) (duties : Lanes Nat) : Lanes (BitVec 8 × Nat) := pins.zip duties

/-- The four lane bytes of a master index: `DECODE`, `ROM_READ`, `PLACE`, `SHIFT`, `WRAP`, `LANES` (R78). -/
def indexBytes (rom : Vector (BitVec 16) 16) (i : BitVec 6) : Lanes (BitVec 8) :=
  laneBytes (unpackWord (romRead rom (decodeIndex i).pattern) (decodeIndex i).offset)

/-- The duty quadruple of a master index (R78): the lane bytes, each scaled. -/
def quad (P : Params) (i : BitVec 6) : Lanes Nat := (indexBytes P.phaseRom i).map (scale P.dutyMax)

end Sys2Proof.Machine
end

