-- ==== Sys2Proof/Machine/Ops.lean ====
section
/-! DEFINITION. The named operations over the state: recording an event, taking a fault (R104), the way out of
one, which is reset (R107, R116), the emission (R78) and the command handshake (R52). -/

namespace Sys2Proof.Machine

/-- The block's outcomes. -/
abbrev Result := Host.Outcome State Fault Refusal

/-- The stepping mode `MODE` holds, if it holds one (R15). -/
def State.stepMode (s : State) : Option StepMode := StepMode.ofBits s.mode

/-- An event is added to the trace at the step that makes it (R41). -/
def State.record (s : State) (e : Event) : State := { s with trace := s.trace ++ [e] }

/-- `DONE(op, r)` (R54). -/
def State.complete (s : State) (op : CommandName) (result : BitVec 32) : State := s.record (.done op result)

/-- Taking a fault (R104): FAULT, FAULT_CAUSE and BUSY in `STATUS`, `PHASE <- HALT`, the event; nothing else. -/
def State.enterFault (s : State) (c : FaultCause) : State :=
  State.record { s with status := faultStatus s.status c, phase := .halt } (.fault c)

/-- Construction from pins and a mode (R116): every register takes its value of R27 and `CFG_OUT` is recorded.
The parameters, the trace so far and what the outside presents are not the block's to reset (log 8, log 12). -/
def State.construct (s : State) (pins : Lanes (BitVec 8)) (mode : BitVec 3) : State :=
  State.record
    { s with
      pinId := pins
      mode := mode
      speed := s.params.speedReset
      pos := resetPos mode
      dutyOut := ⟨0, 0, 0, 0⟩
      status := resetStatus mode
      phase := .idle
      rem := 0#32
      j := 0#6
      dir := .forward
      dly := 0#32
      tmr := 0#32 }
    (.cfgOut pins)

/-- Reset: the configuration word is sampled and construction runs, whatever `PHASE` is (R116, R122). It is the
only way out of `HALT` (R107). -/
def State.resetBlock (s : State) (cfg : BitVec 35) : State := s.construct (cfgPins cfg) (cfgMode cfg)

/-- `EMIT_QUAD(i)`: one `WRITE4` event and `DUTY_OUT` (R78). -/
def State.emitQuad (s : State) (i : BitVec 6) : State :=
  State.record { s with dutyOut := quad s.params i } (.write4 (mux s.pinId (quad s.params i)))

/-- A command has its effect only when the block accepts it, which it does in IDLE only (R52). In any other phase
the command is held by its host and the block is as it was (log 9). -/
def State.whenIdle (s : State) (effect : Result) : Result :=
  if s.phase = .idle then effect else .next s

end Sys2Proof.Machine
end

