-- ==== Sys2Proof/Machine/Sequencer.lean ====
section
/-! DEFINITION. The sequencer steps inside a `STEP` (R90 to R92). -/

namespace Sys2Proof.Machine

/-- Acceptance of a `STEP` that runs: what R84 writes once its checks have passed. -/
def State.beginSweeps (s : State) (m : StepMode) (count : Int) : State :=
  { s with
    dir := directionOf count
    rem := sweepCount count
    j := 0#6
    dly := delay s.speed m
    pos :=
      match s.params.indexPolicy with
      | .restart => restartPos m (directionOf count)
      | .persist => s.pos
    phase := .emit
    status := setBusy s.status true }

/-- One emission: the master index moves one stride, its quadruple goes out, `TMR` is loaded (R90). -/
def State.emission (s : State) (m : StepMode) : State :=
  { s.emitQuad (nextIndex m s.dir s.pos) with
    pos := nextIndex m s.dir s.pos
    tmr := s.dly
    phase := .wait }

/-- `J` after a wait (R92). -/
def State.nextJ (s : State) (m : StepMode) : BitVec 6 :=
  if s.j.toNat + 1 = sweepLen m then 0#6 else s.j + 1#6

/-- `REM` after a wait (R92). -/
def State.nextRem (s : State) (m : StepMode) : BitVec 32 :=
  if s.j.toNat + 1 = sweepLen m then s.rem - 1#32 else s.rem

/-- The end of a wait (R91, R92): `DELAY(DLY)`, the counters, then `DONE(STEP, 0)` or the next emission
(log 7). -/
def State.endWait (s : State) (m : StepMode) : State :=
  let counted := State.record { s with j := s.nextJ m, rem := s.nextRem m } (.delay s.dly.toNat)
  if s.nextRem m = 0#32 then
    State.complete { counted with phase := .idle, status := setBusy s.status false } .step 0#32
  else { counted with phase := .emit }

/-- The EMIT step (R90). -/
def emitStep (s : State) : Result :=
  match s.stepMode with
  | some m => .next (s.emission m)
  | none => .fault .strideUndefined

/-- The WAIT step (R91): while `TMR` > 0 a tick takes one off it, and nothing else happens; at `TMR` = 0 the wait
ends (log 6). -/
def waitStep (tick : Bool) (s : State) : Result :=
  if s.tmr = 0#32 then
    match s.stepMode with
    | some m => .next (s.endWait m)
    | none => .fault .strideUndefined
  else if tick then .next { s with tmr := s.tmr - 1#32 }
  else .next s

end Sys2Proof.Machine
end

