-- ==== Sys2Proof/Machine/Commands.lean ====
section
/-! DEFINITION. The meanings of the three host commands (R84, R93, R94). -/

namespace Sys2Proof.Machine

/-- `STEP` at acceptance (R84). The checks stand in the order of R106: `E_MODE`, the no-op for count 0 (R85),
`E_SPEED`. The stride is needed only after them. -/
def execStep (arg : BitVec 32) (s : State) : Result :=
  s.whenIdle <|
    if statusCfgErr s.status then .next (s.enterFault (.mode s.mode))
    else if stepCount arg = 0 then .next (s.complete .step 0#32)
    else
      match s.stepMode with
      | some m =>
        .next (if s.speed.toInt ≤ 0 then s.enterFault (.speed s.speed) else s.beginSweeps m (stepCount arg))
      | none =>
        if s.speed.toInt ≤ 0 then .next (s.enterFault (.speed s.speed)) else .fault .strideUndefined

/-- `SET_SPEED`: the value is stored with no bounds check, whatever `CFG_ERR` is (R93). -/
def execSetSpeed (arg : BitVec 32) (s : State) : Result :=
  s.whenIdle <| .next (State.complete { s with speed := speedValue arg } .setSpeed 0#32)

/-- `GET_SPEED`: the operand is ignored and `SPEED` is the result (R51, R94). -/
def execGetSpeed (_arg : BitVec 32) (s : State) : Result :=
  s.whenIdle <| .next (s.complete .getSpeed s.speed)

end Sys2Proof.Machine
end

