-- ==== Sys2Proof/Machine/Dispatch.lean ====
section
/-! DEFINITION. The meaning of each instruction, one arm per constructor. -/

namespace Sys2Proof.Machine

def exec (i : Instr) (s : State) : Host.Outcome State Fault Refusal :=
  match i with
  | .step arg => Sys2Proof.Machine.execStep arg s
  | .setSpeed arg => Sys2Proof.Machine.execSetSpeed arg s
  | .getSpeed arg => Sys2Proof.Machine.execGetSpeed arg s

end Sys2Proof.Machine
end

