-- ==== Sys2Proof/Machine/Accept.lean ====
section
/-! DEFINITION. What one step of the block does with what the outside presents: the command handshake (R52, R53)
and the phases (R22). -/

namespace Sys2Proof.Machine

/-- What arrives at this step. After the end of the list the platform delivers a tick at every step: the
fairness assumption of R130 (log 5). -/
def State.nextInput (s : State) : Input :=
  match s.inputs with
  | [] => .tick
  | i :: _ => i

/-- The state once this step's input has been taken. -/
def State.takeInput (s : State) : State := { s with inputs := s.inputs.tail }

/-- Decoding and execution of an accepted command word, in one step (R52). An illegal operation code takes
`E_ILLEGAL_OP` with the whole word (R53, R102). -/
def acceptCommand (cw : BitVec 36) (s : State) : Result :=
  match decode cw with
  | .ok i => exec i s
  | .error _ => .next (s.enterFault (.illegalOp cw))

/-- IDLE: the presented command, if there is one, is accepted (R52); between commands nothing happens (R43). -/
def idleStep (s : State) : Result :=
  match s.requests with
  | [] => .next s
  | cw :: rest => acceptCommand cw { s with requests := rest }

/-- One step of the block without a reset (R22): a tick matters in WAIT only (R108), a command in IDLE only
(R52), and HALT stays as it is (R104). -/
def advance (tick : Bool) (s : State) : Result :=
  match s.phase with
  | .idle => idleStep s
  | .emit => emitStep s
  | .wait => waitStep tick s
  | .halt => .next s

/-- One step with the input that arrives at it; a reset comes before everything else (R106). -/
def stepWith (input : Input) (s : State) : Result :=
  match input with
  | .reset cfg => .next (s.resetBlock cfg)
  | .tick => advance true s
  | .quiet => advance false s

/-- A command word presented to a block that can accept it at the next step: no other request before it, no
input due, `PHASE` = IDLE (log 18). -/
def State.presenting (s : State) (cw : BitVec 36) : State :=
  { s with requests := [cw], inputs := [], phase := .idle }

end Sys2Proof.Machine
end

