-- ==== Sys2Proof/Machine/Step.lean ====
section
/-! DEFINITION. One step of the machine. -/

namespace Sys2Proof.Machine

/-- One step: the input that arrives is taken, then the block acts (Machine/Accept.lean). -/
def step (s : State) : Host.Outcome State Fault Refusal := stepWith s.nextInput s.takeInput

/-- `s` with a command presented so that the very next step accepts and runs it. The host presents its commands
from outside: this stands for it (log 4, log 18). -/
def State.withFetchWord (s : State) (nbits w : Nat) : State :=
  s.presenting (BitVec.ofNat 36 (w % 2 ^ nbits))

end Sys2Proof.Machine
end

