-- ==== Sys2Proof/Safety.lean ====
section
/-! DEFINITION. What counts as a good state and a safe run, and the closed forms the spec gives for what a command
does as a whole. Nothing here is part of the step. -/

namespace Sys2Proof.Machine

/-- `k` steps in a row. -/
def runSteps (k : Nat) (s : State) : Result :=
  match k with
  | 0 => .next s
  | k + 1 =>
    match step s with
    | .next t => runSteps k t
    | .fault f => .fault f
    | .refused r => .refused r

/-- A step is safe when it answers a next state: the block itself never stops, it halts (R104). -/
def SafeStep (s : State) : Prop := ∃ t, step s = .next t

/-- No reset is due from outside. -/
def State.NoReset (s : State) : Prop := ∀ cfg, Input.reset cfg ∉ s.inputs

/-- A `STEP` is running (R20, R22). -/
def State.Running (s : State) : Prop := s.phase = .emit ∨ s.phase = .wait

/-- The registers agree with one another as R20, R22 to R24 and R97 say. -/
structure StateOk (s : State) : Prop where
  /-- `CFG_ERR` is 1 exactly when `MODE` > 4 (R20). -/
  cfgErr : statusCfgErr s.status = true ↔ 4 < s.mode.toNat
  /-- `BUSY` is 1 exactly in EMIT and WAIT (R20). -/
  busy : statusBusy s.status = true ↔ s.Running
  /-- `FAULT` is 1 exactly in HALT (R20, R104). -/
  fault : statusFault s.status = true ↔ s.phase = .halt
  /-- Bit 3 reads 0 (R20). -/
  reserved : statusReserved s.status = false
  /-- `FAULT_CAUSE` is 0 when `FAULT` is 0 (R20). -/
  noCause : s.phase ≠ .halt → statusCause s.status = 0#4
  /-- In HALT the cause is one of the three of R101. -/
  cause : s.phase = .halt → statusCause s.status = 1#4 ∨ statusCause s.status = 2#4 ∨ statusCause s.status = 3#4
  /-- While a `STEP` runs: the mode is legal (R103), the speed positive (R105), `DLY` is what R83 says,
  1 ≤ `REM` ≤ 2^31 and `J` < n (R23, R97). -/
  running : s.Running → ∃ m, s.stepMode = some m ∧ 0 < s.speed.toInt ∧ s.dly = delay s.speed m ∧
    1 ≤ s.rem.toNat ∧ s.rem.toNat ≤ 2 ^ 31 ∧ s.j.toNat < sweepLen m
  /-- Between commands both counters are 0 (R92). -/
  notRunning : ¬ s.Running → s.rem = 0#32 ∧ s.j = 0#6
  /-- `DLY` is a non-negative 31-bit value (R24). -/
  dly : s.dly.toNat < 2 ^ 31
  /-- `TMR` counts down from `DLY` in WAIT and is 0 elsewhere (R91). -/
  tmr : s.tmr.toNat ≤ s.dly.toNat ∧ (s.phase ≠ .wait → s.tmr = 0#32)
  /-- Every held duty is in 0 .. `DUTY_MAX` + 1 (R76, R110). -/
  duty : ∀ k, s.dutyOut.get k ≤ s.params.dutyMax + 1

/-- Where the sweeps of a running `STEP` begin and end, in a block that has run from reset (R89, R99). -/
def State.sweepStart (s : State) (m : StepMode) : BitVec 6 :=
  match s.params.indexPolicy with
  | .restart => restartPos m s.dir
  | .persist => lastOfSweep m

/-- How many emissions of the current sweep are out: `J`, and the one whose wait is running (R23). -/
def State.emissionsOut (s : State) : Nat := s.j.toNat + (if s.phase = .wait then 1 else 0)

/-- Where the master index stands (R87, R88, R99), in a block that has run from reset: during a `STEP` as many
strides from where the sweep began as emissions are out; between commands at the end of a sweep. -/
def PosOk (s : State) : Prop :=
  ∀ m, s.stepMode = some m →
    (s.Running →
      s.pos = match s.dir with
        | .forward => s.sweepStart m + BitVec.ofNat 6 (stride m * s.emissionsOut)
        | .backward => s.sweepStart m - BitVec.ofNat 6 (stride m * s.emissionsOut)) ∧
    (¬ s.Running →
      match s.params.indexPolicy with
      | .restart => s.pos = lastOfSweep m ∨ s.pos = 0#6
      | .persist => s.pos = lastOfSweep m)

/-- The master index of emission `t` of a `STEP` (R87 for `RESTART`, R88 for `PERSIST`), with `start` the value of
`POS` at acceptance. -/
def commandIndex (policy : IndexPolicy) (m : StepMode) (d : Direction) (start : BitVec 6) (t : Nat) : BitVec 6 :=
  match policy, d with
  | .restart, .forward => BitVec.ofNat 6 (stride m * t % 64)
  | .restart, .backward => BitVec.ofInt 6 ((64 - (stride m : Int) - stride m * t) % 64)
  | .persist, .forward => BitVec.ofNat 6 ((start.toNat + stride m * (t + 1)) % 64)
  | .persist, .backward => BitVec.ofInt 6 (((start.toNat : Int) - stride m * (t + 1)) % 64)

/-- The events of one emission and its wait (R43). -/
def emissionEvents (s : State) (m : StepMode) (i : BitVec 6) : List Event :=
  [.write4 (mux s.pinId (quad s.params i)), .delay (delay s.speed m).toNat]

/-- The events of the first `k` emissions of a `STEP` accepted in `s` (R43, R86 to R88). -/
def sweepEvents (s : State) (m : StepMode) (d : Direction) (k : Nat) : List Event :=
  (List.range k).flatMap fun t => emissionEvents s m (commandIndex s.params.indexPolicy m d s.pos t)

/-- The number of emissions of a `STEP` of a count (R86). -/
def emissionCount (m : StepMode) (count : Int) : Nat := count.natAbs * sweepLen m

/-- The total wait of one sweep in microseconds (R100). -/
def sweepWait (speed : BitVec 32) (m : StepMode) : Nat := sweepLen m * (delay speed m).toNat

/-- The lane that carries the H byte at a pin offset, `(3 − o) mod 4` (R72). -/
def laneOfHigh (o : BitVec 2) : Nat := (3 - o.toNat) % 4

/-- The lane that carries the L byte at a pin offset, `(2 − o) mod 4` (R72). -/
def laneOfLow (o : BitVec 2) : Nat := (6 - o.toNat) % 4

/-- `QUAD(i)[k]` in the closed form of R79. -/
def quadClosed (P : Params) (i : BitVec 6) (k : Fin 4) : Nat :=
  let d := decodeIndex i
  let e := romRead P.phaseRom d.pattern
  if k.val = laneOfHigh d.offset then scale P.dutyMax (entryHigh e)
  else if k.val = laneOfLow d.offset then scale P.dutyMax (entryLow e)
  else 0

/-- How many of four lanes are not 0 (R66, R74). -/
def nonZeroLanes (l : Lanes (BitVec 8)) : Nat := (l.toList.filter (· ≠ 0#8)).length

/-- `ROM_E0` of R65: a hypothesis a claim may name, never assumed by the model. -/
def RomE0 (P : Params) : Prop := romRead P.phaseRom 0#4 = 0xFF00#16

/-- `ROM_E8` of R65, withdrawn by its own sentence (C7). -/
def RomE8 (P : Params) : Prop := romRead P.phaseRom 8#4 = 0xFFFF#16

/-- `ROM_SUM` of R65. -/
def RomSum (P : Params) : Prop := ∃ c : Nat, ∀ p,
  (entryHigh (romRead P.phaseRom p)).toNat + (entryLow (romRead P.phaseRom p)).toNat = c

/-- `ROM_MONO` of R65: "the bytes change monotonically with p". R65 does not say which byte rises and which falls
(N4). DESIGN CHOICE (log 23), safe: that the change need not be strict (≤), and that each byte has a direction of its
own, so that the two may go the same way. -/
def RomMono (P : Params) : Prop :=
  ((∀ p q : BitVec 4, p.toNat ≤ q.toNat →
      (entryHigh (romRead P.phaseRom p)).toNat ≤ (entryHigh (romRead P.phaseRom q)).toNat) ∨
    (∀ p q : BitVec 4, p.toNat ≤ q.toNat →
      (entryHigh (romRead P.phaseRom q)).toNat ≤ (entryHigh (romRead P.phaseRom p)).toNat)) ∧
  ((∀ p q : BitVec 4, p.toNat ≤ q.toNat →
      (entryLow (romRead P.phaseRom p)).toNat ≤ (entryLow (romRead P.phaseRom q)).toNat) ∨
    (∀ p q : BitVec 4, p.toNat ≤ q.toNat →
      (entryLow (romRead P.phaseRom q)).toNat ≤ (entryLow (romRead P.phaseRom p)).toNat))

/-- `ROM_RANGE` of R65, true of every table. -/
def RomRange (P : Params) : Prop := ∀ p,
  (entryHigh (romRead P.phaseRom p)).toNat ≤ 255 ∧ (entryLow (romRead P.phaseRom p)).toNat ≤ 255

/-- `ROM_NONZERO` of R65 and R66. -/
def RomNonzero (P : Params) : Prop := ∀ p, romRead P.phaseRom p ≠ 0#16

end Sys2Proof.Machine
end

