-- ==== Sys2Proof/Certificates/Slice0/Obligations.lean ====
section
/-! DEFINITION. The statements for the provers. Each docstring names the rule of spec/ it formalises; a clause that
rests on a choice of the model says so and names its log entry. Strides and sweep lengths stand here as the
spec's arithmetic on `MODE` (16 / 2^MODE, 4 · 2^MODE) where the model has a function for them. -/

open Sys2Proof Sys2Proof.Machine

-- ---- reset ----

/-- R116 with R27: a reset, in any phase, gives every register its value and records `CFG_OUT`; the ROM and the
other parameters stay. What becomes of the held requests is in ResetKeepsHeldRequests. -/
def Obligations.ResetConstructsTheBlock : Prop :=
  ∀ (s : State) (cfg : BitVec 35), s.nextInput = .reset cfg →
    ∃ t, step s = .next t ∧
      t.pinId = ⟨cfg.extractLsb' 0 8, cfg.extractLsb' 8 8, cfg.extractLsb' 16 8, cfg.extractLsb' 24 8⟩ ∧
      t.mode = cfg.extractLsb' 32 3 ∧
      t.speed = s.params.speedReset ∧
      (t.mode.toNat ≤ 4 → t.pos.toNat = (64 - 16 / 2 ^ t.mode.toNat) % 64) ∧
      (4 < t.mode.toNat → t.pos = 0#6) ∧
      t.dutyOut = ⟨0, 0, 0, 0⟩ ∧
      t.status = (if 4 < t.mode.toNat then 0x02#8 else 0x00#8) ∧
      t.phase = .idle ∧ t.rem = 0#32 ∧ t.j = 0#6 ∧ t.dir = .forward ∧ t.dly = 0#32 ∧ t.tmr = 0#32 ∧
      t.trace = s.trace ++ [.cfgOut t.pinId] ∧
      t.params = s.params

/-- The model's choice (log 8): a reset takes neither the held requests nor the inputs after it away. -/
def Obligations.ResetKeepsHeldRequests : Prop :=
  ∀ (s t : State) (cfg : BitVec 35), s.nextInput = .reset cfg → step s = .next t →
    t.requests = s.requests ∧ t.inputs = s.inputs.tail

/-- `State.reset` holds the values of R27 for a configuration that names no mode; that it names none and that
nothing is presented are the model's choices (log 3, log 4, log 5). -/
def Obligations.ResetStateValues : Prop :=
  State.reset.mode = 4#3 ∧ State.reset.pos = 63#6 ∧ State.reset.speed = State.reset.params.speedReset ∧
  State.reset.dutyOut = ⟨0, 0, 0, 0⟩ ∧ State.reset.status = 0x00#8 ∧ State.reset.phase = .idle ∧
  State.reset.rem = 0#32 ∧ State.reset.j = 0#6 ∧ State.reset.dir = .forward ∧ State.reset.dly = 0#32 ∧
  State.reset.tmr = 0#32 ∧ State.reset.trace = [.cfgOut State.reset.pinId] ∧
  State.reset.requests = [] ∧ State.reset.inputs = [] ∧ 1 ≤ State.reset.params.dutyMax

/-- The state after reset meets both invariants. -/
def Obligations.ResetStateMeetsInvariants : Prop := StateOk State.reset ∧ PosOk State.reset

-- ---- command words ----

/-- R48 to R51: the decoder reads every encoded command back, and the encoder writes every legal word back, with
every operand. -/
def Obligations.DecodeAndEncodeAgree : Prop :=
  (∀ i : Instr, decode (encode i) = .ok i) ∧
  (∀ (cw : BitVec 36) (i : Instr), decode cw = .ok i → encode i = cw)

/-- Words of `95_test_vectors.md` 3.10 and the illegal ones of 3.9. -/
def Obligations.ListedWordsDecode : Prop :=
  decode 0x100000001#36 = .ok (.step 1#32) ∧
  decode 0x1FFFFFFFF#36 = .ok (.step 0xFFFFFFFF#32) ∧
  decode 0x180000000#36 = .ok (.step 0x80000000#32) ∧
  decode 0x2000003E8#36 = .ok (.setSpeed 1000#32) ∧
  decode 0x300000000#36 = .ok (.getSpeed 0#32) ∧
  decode 0x312345678#36 = .ok (.getSpeed 0x12345678#32) ∧
  decode 0x000000000#36 = .error (.illegalOp 0x0#4) ∧
  decode 0xF00000001#36 = .error (.illegalOp 0xF#4)

/-- R53 with R102: an accepted word whose operation code is not 1, 2 or 3 raises `E_ILLEGAL_OP` with the whole
word as its information, and does nothing else (R104). -/
def Obligations.IllegalOperationFaults : Prop :=
  ∀ (s : State) (cw : BitVec 36) (rest : List (BitVec 36)),
    s.phase = .idle → (∀ cfg, s.nextInput ≠ .reset cfg) → s.requests = cw :: rest →
    cw.toNat / 2 ^ 32 ≠ 1 → cw.toNat / 2 ^ 32 ≠ 2 → cw.toNat / 2 ^ 32 ≠ 3 →
    step s = .next { s with
      requests := rest
      inputs := s.inputs.tail
      status := (s.status &&& 0x0A#8) ||| 0x14#8
      phase := .halt
      trace := s.trace ++ [.fault (.illegalOp cw)] }

/-- A step of an idle block with a command presented runs the decoded instruction (R52: accepting and decoding
happen in one step), on the state that has taken the word and this step's input. -/
def Obligations.StepRunsTheDecodedCommand : Prop :=
  ∀ (s : State) (cw : BitVec 36) (rest : List (BitVec 36)) (i : Instr),
    s.phase = .idle → (∀ cfg, s.nextInput ≠ .reset cfg) → s.requests = cw :: rest → decode cw = .ok i →
    step s = exec i { s with requests := rest, inputs := s.inputs.tail }

-- ---- index decoder and ROM ----

/-- R62: `p = i mod 16`, `o = i div 16`. -/
def Obligations.IndexSplitsIntoPatternAndOffset : Prop :=
  ∀ i : BitVec 6, (decodeIndex i).pattern.toNat = i.toNat % 16 ∧ (decodeIndex i).offset.toNat = i.toNat / 16

/-- R63: a wider index, unsigned or signed, is reduced to its non-negative remainder mod 64, for an unsigned one
its bits 5:0. -/
def Obligations.WideIndexIsReduced : Prop :=
  (∀ v : Int, ((reduceIndex v).toNat : Int) = v % 64 ∧ decodeWide v = decodeIndex (reduceIndex v)) ∧
  (∀ (w : Nat) (v : BitVec w), 6 ≤ w →
    reduceIndex v.toNat = v.extractLsb' 0 6 ∧ ((reduceIndex v.toInt).toNat : Int) = v.toInt % 64)

/-- R37 with R64: the entry read is the table's, H its high byte and L its low byte. -/
def Obligations.EntryPacksTwoBytes : Prop :=
  ∀ (rom : Vector (BitVec 16) 16) (p : BitVec 4),
    romRead rom p = rom[p.toNat]'p.isLt ∧
    (romRead rom p).toNat = 256 * (entryHigh (romRead rom p)).toNat + (entryLow (romRead rom p)).toNat

-- ---- unpacker and mux ----

/-- R72: `PLACE`, `SHIFT` and `WRAP` together rotate the placed entry right by `8·o`; lane `(3 − o) mod 4` is H,
lane `(2 − o) mod 4` is L, the other two are 0. -/
def Obligations.UnpackerRotatesTheEntry : Prop :=
  ∀ (e : BitVec 16) (o : BitVec 2),
    unpackWord e o = (e.setWidth 32 <<< 16).rotateRight (8 * o.toNat) ∧
    ∀ k : Fin 4, (laneBytes (unpackWord e o)).get k =
      if (k.val : Int) = (3 - (o.toNat : Int)) % 4 then entryHigh e
      else if (k.val : Int) = (2 - (o.toNat : Int)) % 4 then entryLow e
      else 0#8

/-- R74: how many lanes are not 0, which they are, and that the two are adjacent modulo 4. -/
def Obligations.AtMostTwoAdjacentLanes : Prop :=
  ∀ (e : BitVec 16) (o : BitVec 2),
    nonZeroLanes (laneBytes (unpackWord e o)) =
      (if entryHigh e ≠ 0#8 then 1 else 0) + (if entryLow e ≠ 0#8 then 1 else 0) ∧
    (e = 0#16 ↔ nonZeroLanes (laneBytes (unpackWord e o)) = 0) ∧
    (∀ k : Fin 4, (laneBytes (unpackWord e o)).get k ≠ 0#8 →
      (k.val : Int) = (3 - (o.toNat : Int)) % 4 ∨ (k.val : Int) = (2 - (o.toNat : Int)) % 4) ∧
    (laneOfLow o + 1) % 4 = laneOfHigh o

/-- R75, and the range of R76: `SCALE` is the floor quotient of the exact product by 255, fits `DUTY_W` bits, does not
decrease, is 0 at 0, at most `DUTY_MAX` below 255 and `DUTY_MAX + 1` at 255. -/
def Obligations.ScaleRange : Prop :=
  ∀ (dutyMax : Nat) (b c : BitVec 8),
    255 * scale dutyMax b ≤ b.toNat * (dutyMax + 1) ∧ b.toNat * (dutyMax + 1) < 255 * (scale dutyMax b + 1) ∧
    scale dutyMax b < 2 ^ Config.dutyWidth dutyMax ∧
    (b.toNat ≤ c.toNat → scale dutyMax b ≤ scale dutyMax c) ∧
    scale dutyMax 0#8 = 0 ∧
    (b.toNat ≤ 254 → scale dutyMax b ≤ dutyMax) ∧
    scale dutyMax 255#8 = dutyMax + 1

/-- R6: `DUTY_W` is the least width that holds `DUTY_MAX + 1`. -/
def Obligations.DutyWidthIsTheLeast : Prop :=
  ∀ dutyMax w : Nat, dutyMax + 1 < 2 ^ w ↔ Config.dutyWidth dutyMax ≤ w

/-- R79: the quadruple of an index in closed form, what an emission writes to each pin and holds, and that it
depends on the index, the ROM and `DUTY_MAX` alone. -/
def Obligations.QuadrupleClosedForm : Prop :=
  (∀ (s : State) (i : BitVec 6), ∃ w : Lanes (BitVec 8 × Nat),
    (s.emitQuad i).trace = s.trace ++ [.write4 w] ∧
    ∀ k : Fin 4, w.get k = (s.pinId.get k, quadClosed s.params i k) ∧
      (s.emitQuad i).dutyOut.get k = quadClosed s.params i k) ∧
  (∀ (P Q : Params) (i : BitVec 6), P.phaseRom = Q.phaseRom → P.dutyMax = Q.dutyMax → quad P i = quad Q i)

/-- R66, read of the lane bytes (R74): every index has at most two non-zero lanes, and every index has one or two
exactly when `ROM_NONZERO` holds. -/
def Obligations.RomNonzeroGivesOneOrTwoLanes : Prop :=
  ∀ P : Params,
    (∀ i, nonZeroLanes (indexBytes P.phaseRom i) ≤ 2) ∧
    ((∀ i, 1 ≤ nonZeroLanes (indexBytes P.phaseRom i)) ↔ RomNonzero P)

/-- R80, and R79 for the lane that R80 does not name: how the four lanes move from an index to the next one. Inside a
pin offset the two lanes take the next entry's bytes; at the end of one, H leaves its lane, L's lane takes H of entry 0
and the next lane takes L of entry 0. The fourth lane is 0 at both indices. -/
def Obligations.LanesWalkBetweenIndices : Prop :=
  ∀ (P : Params) (i : BitVec 6) (h l n z : Fin 4),
    (h.val : Int) = (3 - ((decodeIndex i).offset.toNat : Int)) % 4 →
    (l.val : Int) = (2 - ((decodeIndex i).offset.toNat : Int)) % 4 →
    (n.val : Int) = (1 - ((decodeIndex i).offset.toNat : Int)) % 4 →
    (z.val : Int) = (0 - ((decodeIndex i).offset.toNat : Int)) % 4 →
    (quad P i).get h = scale P.dutyMax (entryHigh (romRead P.phaseRom (decodeIndex i).pattern)) ∧
    (quad P i).get l = scale P.dutyMax (entryLow (romRead P.phaseRom (decodeIndex i).pattern)) ∧
    (quad P i).get n = 0 ∧ (quad P i).get z = 0 ∧ (quad P (i + 1#6)).get z = 0 ∧
    (i.toNat % 16 < 15 →
      (quad P (i + 1#6)).get h =
        scale P.dutyMax (entryHigh (romRead P.phaseRom ((decodeIndex i).pattern + 1#4))) ∧
      (quad P (i + 1#6)).get l =
        scale P.dutyMax (entryLow (romRead P.phaseRom ((decodeIndex i).pattern + 1#4))) ∧
      (quad P (i + 1#6)).get n = 0) ∧
    (i.toNat % 16 = 15 →
      (quad P (i + 1#6)).get h = 0 ∧
      (quad P (i + 1#6)).get l = scale P.dutyMax (entryHigh (romRead P.phaseRom 0#4)) ∧
      (quad P (i + 1#6)).get n = scale P.dutyMax (entryLow (romRead P.phaseRom 0#4)))

-- ---- stride and delay ----

/-- R16, R81: the stride is `16 / 2^MODE` of the register's value and is defined exactly for `MODE` ≤ 4; a register
value stands for the mode whose ordinal it is, and for no other. -/
def Obligations.StrideOfMode : Prop :=
  (∀ m : StepMode, stride m = 16 / 2 ^ m.ordinal.toNat) ∧
  (∀ b : BitVec 3, (StepMode.ofBits b).isSome = true ↔ b.toNat ≤ 4) ∧
  (∀ (b : BitVec 3) (m : StepMode), StepMode.ofBits b = some m ↔ m.ordinal = b) ∧
  [StepMode.full, .half, .quarter, .eighth, .sixteenth].map stride = [16, 8, 4, 2, 1]

/-- R82: `n = 64 / s = 4 · 2^MODE`, `n · s = 64`, and the n indices of a sweep are distinct and come round again,
in either direction under either policy. -/
def Obligations.SweepVisitsDistinctIndices : Prop :=
  ∀ (policy : IndexPolicy) (m : StepMode) (d : Direction) (start : BitVec 6),
    sweepLen m = 4 * 2 ^ m.ordinal.toNat ∧ sweepLen m * stride m = 64 ∧
    (∀ t u, t < sweepLen m → u < sweepLen m →
      commandIndex policy m d start t = commandIndex policy m d start u → t = u) ∧
    (∀ t, commandIndex policy m d start (t + sweepLen m) = commandIndex policy m d start t)

/-- R100: the total wait of a sweep is `4 · 2^MODE · DLY`, at most `4 · SPEED`, and equal to it when 2^MODE
divides `SPEED`. -/
def Obligations.SweepWaitIsAtMostFourSpeeds : Prop :=
  ∀ (speed : BitVec 32) (m : StepMode), 0 < speed.toInt →
    (sweepWait speed m : Int) = 4 * 2 ^ m.ordinal.toNat * (speed.toInt / 2 ^ m.ordinal.toNat) ∧
    (sweepWait speed m : Int) ≤ 4 * speed.toInt ∧
    ((2 ^ m.ordinal.toNat : Int) ∣ speed.toInt → (sweepWait speed m : Int) = 4 * speed.toInt)

-- ---- commands ----

/-- R103: with `CFG_ERR` = 1 every `STEP`, whatever its count, takes `E_MODE` and does nothing else. -/
def Obligations.StepInIllegalModeFaults : Prop :=
  ∀ (s : State) (arg : BitVec 32), s.phase = .idle → statusCfgErr s.status = true →
    exec (.step arg) s = .next { s with
      status := (s.status &&& 0x0A#8) ||| 0x24#8
      phase := .halt
      trace := s.trace ++ [.fault (.mode s.mode)] }

/-- R85: `STEP 0` records its `DONE` and nothing else, whatever the speed; it takes `E_MODE` when `CFG_ERR` = 1. -/
def Obligations.StepZeroIsANoOp : Prop :=
  ∀ s : State, s.phase = .idle →
    (statusCfgErr s.status = false →
      exec (.step 0#32) s = .next { s with trace := s.trace ++ [.done .step 0#32] }) ∧
    (statusCfgErr s.status = true →
      ∃ t, exec (.step 0#32) s = .next t ∧ t.phase = .halt ∧ t.trace = s.trace ++ [.fault (.mode s.mode)])

/-- R105: a `STEP` with a count other than 0 accepted while `SPEED` ≤ 0 takes `E_SPEED` and does nothing else. -/
def Obligations.StepWithoutSpeedFaults : Prop :=
  ∀ (s : State) (arg : BitVec 32), s.phase = .idle → statusCfgErr s.status = false → arg ≠ 0#32 →
    s.speed.toInt ≤ 0 →
    exec (.step arg) s = .next { s with
      status := (s.status &&& 0x0A#8) ||| 0x34#8
      phase := .halt
      trace := s.trace ++ [.fault (.speed s.speed)] }

/-- R84 past its checks, with R83 and R89: a `STEP` that runs loads the direction, |count| sweeps, the delay
`SPEED div 2^MODE` and, under `RESTART`, the start of the index, and enters EMIT with BUSY; nothing else changes
and no event is made. -/
def Obligations.StepBeginsItsSweeps : Prop :=
  ∀ (s : State) (arg : BitVec 32), s.phase = .idle → statusCfgErr s.status = false → s.mode.toNat ≤ 4 →
    arg ≠ 0#32 → 0 < s.speed.toInt →
    exec (.step arg) s = .next { s with
      dir := if arg.toInt < 0 then .backward else .forward
      rem := BitVec.ofNat 32 arg.toInt.natAbs
      j := 0#6
      dly := BitVec.ofInt 32 (s.speed.toInt / 2 ^ s.mode.toNat)
      pos :=
        if s.params.indexPolicy = .persist then s.pos
        else if arg.toInt < 0 then 0#6
        else BitVec.ofNat 6 ((64 - 16 / 2 ^ s.mode.toNat) % 64)
      phase := .emit
      status := s.status ||| 0x01#8 } ∧
    0 ≤ s.speed.toInt / 2 ^ s.mode.toNat ∧ s.speed.toInt / 2 ^ s.mode.toNat ≤ 2 ^ 31 - 1 ∧
    (s.speed.toInt < 2 ^ s.mode.toNat → s.speed.toInt / 2 ^ s.mode.toNat = 0)

/-- R93: `SET_SPEED` stores every value unchanged, whatever `STATUS` is, and makes only its `DONE`. -/
def Obligations.SetSpeedStoresEveryValue : Prop :=
  ∀ (s : State) (value : BitVec 32), s.phase = .idle →
    exec (.setSpeed value) s = .next { s with speed := value, trace := s.trace ++ [.done .setSpeed 0#32] }

/-- R94 with R51: `GET_SPEED` answers `SPEED`, whatever its operand and `STATUS` are, and changes nothing else. -/
def Obligations.GetSpeedAnswersTheSpeed : Prop :=
  ∀ (s : State) (arg : BitVec 32), s.phase = .idle →
    exec (.getSpeed arg) s = .next { s with trace := s.trace ++ [.done .getSpeed s.speed] }

/-- What is set is read back, as two steps of the machine: W5 of `95_test_vectors.md`. -/
def Obligations.SpeedSetIsReadBack : Prop :=
  ∀ (s : State) (value arg : BitVec 32) (rest : List (BitVec 36)), s.phase = .idle → s.NoReset →
    s.requests = encode (.setSpeed value) :: encode (.getSpeed arg) :: rest →
    runSteps 2 s = .next { s with
      speed := value
      requests := rest
      inputs := s.inputs.drop 2
      trace := s.trace ++ [.done .setSpeed 0#32, .done .getSpeed value] }

/-- The model's choice (log 9): outside IDLE a command has no effect at all, since it is not accepted (R52). -/
def Obligations.CommandHasNoEffectUnlessAccepted : Prop :=
  ∀ (s : State) (i : Instr), s.phase ≠ .idle → exec i s = .next s

-- ---- faults ----

/-- R104: fault entry sets FAULT and the cause, clears BUSY, halts and records the fault; nothing else changes,
and from then on no step without a reset changes anything but the inputs still due. -/
def Obligations.FaultEntryHalts : Prop :=
  ∀ (s : State) (c : FaultCause),
    s.enterFault c = { s with
      status := (s.status &&& 0x0A#8) ||| 0x04#8 ||| (c.code.setWidth 8 <<< 4)
      phase := .halt
      trace := s.trace ++ [.fault c] } ∧
    c.code = (match c with | .illegalOp _ => 1#4 | .mode _ => 2#4 | .speed _ => 3#4) ∧
    ∀ t : State, t.phase = .halt → (∀ cfg, t.nextInput ≠ .reset cfg) →
      step t = .next { t with inputs := t.inputs.tail }

/-- R107: HALT is left by a reset and by nothing else, and the reset clears FAULT and FAULT_CAUSE. -/
def Obligations.OnlyResetLeavesHalt : Prop :=
  ∀ s t : State, s.phase = .halt → step s = .next t →
    ((∃ cfg, s.nextInput = .reset cfg) →
      t.phase = .idle ∧ statusFault t.status = false ∧ statusCause t.status = 0#4) ∧
    ((∀ cfg, s.nextInput ≠ .reset cfg) → t.phase = .halt ∧ t.status = s.status ∧ t.trace = s.trace)

-- ---- sequencer steps ----

/-- R90: the EMIT step moves the index one stride modulo 64, emits its quadruple, loads `TMR` and waits; nothing
else changes. -/
def Obligations.EmitStepEmitsTheNextIndex : Prop :=
  ∀ (s : State) (i : BitVec 6), s.phase = .emit → (∀ cfg, s.nextInput ≠ .reset cfg) → s.mode.toNat ≤ 4 →
    (i.toNat : Int) =
      (match s.dir with
        | .forward => (s.pos.toNat : Int) + 16 / 2 ^ s.mode.toNat
        | .backward => (s.pos.toNat : Int) - 16 / 2 ^ s.mode.toNat) % 64 →
    step s = .next { s with
      inputs := s.inputs.tail
      dutyOut := quad s.params i
      trace := s.trace ++ [.write4 (s.pinId.zip (quad s.params i))]
      pos := i
      tmr := s.dly
      phase := .wait }

/-- R91 while `TMR` > 0: a tick takes one off it. The rest is the model's reading: that the tick which writes 0 does
nothing else, so that the wait ends at a later step (log 6, DEDUCED, unsafe when a reset falls between the two), and
that a step without a tick is a step that changes nothing but the input taken (log 16, DESIGN CHOICE). -/
def Obligations.WaitCountsTicks : Prop :=
  ∀ s : State, s.phase = .wait → s.tmr ≠ 0#32 →
    (s.nextInput = .tick → step s = .next { s with inputs := s.inputs.tail, tmr := s.tmr - 1#32 }) ∧
    (s.nextInput = .quiet → step s = .next { s with inputs := s.inputs.tail })

/-- R92 at `TMR` = 0 (R91): `DELAY(DLY)`, the two counters, then `DONE(STEP, 0)` and IDLE when `REM` is 0, else
EMIT; nothing else changes. That the wait ends at the step that finds `TMR` = 0, and the counters are read as just
written, are readings of the spec (log 6, log 7). -/
def Obligations.WaitEndsAndCounts : Prop :=
  ∀ (s : State) (j' : BitVec 6) (rem' : BitVec 32), s.phase = .wait → s.tmr = 0#32 →
    (∀ cfg, s.nextInput ≠ .reset cfg) → s.mode.toNat ≤ 4 →
    j' = (if s.j.toNat + 1 = 4 * 2 ^ s.mode.toNat then 0#6 else s.j + 1#6) →
    rem' = (if s.j.toNat + 1 = 4 * 2 ^ s.mode.toNat then s.rem - 1#32 else s.rem) →
    (rem' = 0#32 → step s = .next { s with
      inputs := s.inputs.tail
      j := j'
      rem := rem'
      phase := .idle
      status := s.status &&& 0xFE#8
      trace := s.trace ++ [.delay s.dly.toNat, .done .step 0#32] }) ∧
    (rem' ≠ 0#32 → step s = .next { s with
      inputs := s.inputs.tail
      j := j'
      rem := rem'
      phase := .emit
      trace := s.trace ++ [.delay s.dly.toNat] })

/-- R43: between commands the block makes no event and keeps everything. -/
def Obligations.IdleWithoutRequestKeepsAll : Prop :=
  ∀ s : State, s.phase = .idle → s.requests = [] → (∀ cfg, s.nextInput ≠ .reset cfg) →
    step s = .next { s with inputs := s.inputs.tail }

-- ---- whole-machine rules ----

/-- R108: outside WAIT a tick changes nothing: a step with it is a step without it. -/
def Obligations.TickMattersInWaitOnly : Prop :=
  ∀ (s : State) (rest : List Input), s.phase ≠ .wait →
    step { s with inputs := .tick :: rest } = step { s with inputs := .quiet :: rest }

/-- R52: outside IDLE, without a reset, the held requests stay as they are and no step depends on them. -/
def Obligations.RequestsAreHeldOutsideIdle : Prop :=
  ∀ (s t : State) (other : List (BitVec 36)), s.phase ≠ .idle → (∀ cfg, s.nextInput ≠ .reset cfg) →
    step s = .next t →
    t.requests = s.requests ∧ step { s with requests := other } = .next { t with requests := other }

/-- R96 with R36: no step changes the ROM or another parameter, and no step but a reset changes `MODE` or
`PIN_ID`. -/
def Obligations.ConfigurationIsFixedBetweenResets : Prop :=
  ∀ s t : State, step s = .next t →
    t.params = s.params ∧ ((∀ cfg, s.nextInput ≠ .reset cfg) → t.mode = s.mode ∧ t.pinId = s.pinId)

/-- R41: a step adds at most two events at the end of the trace, and nothing reads the trace back. -/
def Obligations.TraceGrowsAndIsNeverRead : Prop :=
  ∀ s t : State, step s = .next t →
    ∃ es : List Event, es.length ≤ 2 ∧
      ∀ tr : List Event, step { s with trace := tr } = .next { t with trace := tr ++ es }

/-- R95 with R17: without a reset, `SPEED` changes only by the acceptance of a `SET_SPEED`, and while a `STEP` runs
neither `SPEED` nor the delay it was accepted with changes. -/
def Obligations.SpeedIsFixedWhileAStepRuns : Prop :=
  ∀ s t : State, (∀ cfg, s.nextInput ≠ .reset cfg) → step s = .next t →
    (s.Running → t.speed = s.speed ∧ t.dly = s.dly) ∧
    (t.speed ≠ s.speed → s.phase = .idle ∧
      ∃ value rest, s.requests = encode (.setSpeed value) :: rest ∧ t.speed = value)

/-- R19: without a reset only the EMIT step writes `DUTY_OUT` or a pin; and it writes the pins once. -/
def Obligations.OnlyEmissionsWritePins : Prop :=
  ∀ s t : State, (∀ cfg, s.nextInput ≠ .reset cfg) → step s = .next t →
    (s.phase ≠ .emit → t.dutyOut = s.dutyOut ∧
      ∃ es : List Event, t.trace = s.trace ++ es ∧ ∀ w, Event.write4 w ∉ es) ∧
    (s.phase = .emit → ∃ w, t.trace = s.trace ++ [.write4 w] ∧ ∀ k, w.get k = (s.pinId.get k, t.dutyOut.get k))

/-- Every step keeps the registers in agreement (R20, R22 to R24, R97). -/
def Obligations.StepKeepsRegistersInAgreement : Prop :=
  ∀ s t : State, StateOk s → step s = .next t → StateOk t

/-- Every step keeps the master index where the sweeps of R87 to R89 and R99 put it. -/
def Obligations.StepKeepsIndexOnItsSweep : Prop :=
  ∀ s t : State, StateOk s → PosOk s → step s = .next t → PosOk t

/-- From a state whose registers agree no step stops the machine, so that the stop for an undefined stride is never
reached (R81, R103; log 11). -/
def Obligations.AgreeingStateNeverStops : Prop := ∀ s : State, StateOk s → SafeStep s

-- ---- a command as a whole ----

/-- R86 to R88 and R130: a `STEP` with a count other than 0 that is accepted and does not fault runs, however the
ticks come (log 5), to `DONE` with exactly |count| · n emissions at the indices the policy gives, each followed by its
`DELAY`, and leaves the rest as it was. -/
def Obligations.StepCommandRunsToDone : Prop :=
  ∀ (s : State) (arg : BitVec 32) (m : StepMode),
    s.phase = .idle → statusCfgErr s.status = false → s.stepMode = some m → arg ≠ 0#32 → 0 < s.speed.toInt →
    s.NoReset →
    ∃ (begun t : State) (k : Nat), exec (.step arg) s = .next begun ∧ runSteps k begun = .next t ∧
      t.phase = .idle ∧ statusBusy t.status = false ∧
      t.trace = s.trace ++ sweepEvents s m (directionOf arg.toInt) (emissionCount m arg.toInt) ++
        [.done .step 0#32] ∧
      t.pos = commandIndex s.params.indexPolicy m (directionOf arg.toInt) s.pos (emissionCount m arg.toInt - 1) ∧
      t.speed = s.speed ∧ t.mode = s.mode ∧ t.pinId = s.pinId ∧ t.params = s.params ∧ t.requests = s.requests

/-- R99: the index of the last emission of a `STEP` of any number of sweeps: under `PERSIST` where it began, under
`RESTART` `64 − s` after a forward one and 0 after a backward one. -/
def Obligations.IndexAfterACommand : Prop :=
  ∀ (policy : IndexPolicy) (m : StepMode) (count : Int) (start : BitVec 6), count ≠ 0 →
    commandIndex policy m (directionOf count) start (emissionCount m count - 1) =
      match policy with
      | .persist => start
      | .restart => if count < 0 then 0#6 else BitVec.ofNat 6 (64 - stride m)

/-- R124: under `RESTART` the first emission after a reversal repeats the index of the last one before it, and two
commands of one direction follow on by one stride; under `PERSIST` no first emission repeats the last index. -/
def Obligations.ReversalRepeatsUnderRestartOnly : Prop :=
  ∀ (m : StepMode) (sweeps : Nat) (start : BitVec 6), 0 < sweeps →
    (∀ a b : BitVec 6,
      commandIndex .restart m .forward a (sweeps * sweepLen m - 1) = commandIndex .restart m .backward b 0 ∧
      commandIndex .restart m .backward a (sweeps * sweepLen m - 1) = commandIndex .restart m .forward b 0 ∧
      commandIndex .restart m .forward b 0 =
        commandIndex .restart m .forward a (sweeps * sweepLen m - 1) + BitVec.ofNat 6 (stride m) ∧
      commandIndex .restart m .backward b 0 =
        commandIndex .restart m .backward a (sweeps * sweepLen m - 1) - BitVec.ofNat 6 (stride m)) ∧
    (∀ d e : Direction,
      commandIndex .persist m e (commandIndex .persist m d start (sweeps * sweepLen m - 1)) 0 ≠
        commandIndex .persist m d start (sweeps * sweepLen m - 1))

/-- R98: under `RESTART` a backward command of as many sweeps emits the forward command's indices in reverse order;
under `PERSIST`, from the same start (R99), it emits them in reverse order shifted by one and ends at the start. -/
def Obligations.BackwardCommandRetracesTheForwardOne : Prop :=
  ∀ (m : StepMode) (sweeps t : Nat) (start : BitVec 6), t < sweeps * sweepLen m →
    commandIndex .restart m .backward start t =
      commandIndex .restart m .forward start (sweeps * sweepLen m - 1 - t) ∧
    (t + 1 < sweeps * sweepLen m → commandIndex .persist m .backward start t =
      commandIndex .persist m .forward start (sweeps * sweepLen m - 2 - t)) ∧
    commandIndex .persist m .backward start (sweeps * sweepLen m - 1) = start
end

