-- ==== Sys2Proof/Laws/PerInstr.lean ====
section
/-! SUPPORT. Per-instruction families: one lemma per constructor of `Instr`. -/

namespace Sys2Proof.Laws.EncodeMatchesTable

/-- The value of the row's fixed bits in spec/opcode_table.json (its "match", under its "mask"). -/
def tableMatch (i : Instr) : BitVec 36 :=
  match i with
  | .step _ => 0x100000000#36
  | .setSpeed _ => 0x200000000#36
  | .getSpeed _ => 0x300000000#36

/-- The encoded word has the fixed bits of its row of the opcode table (R49). -/
def Statement (i : Instr) : Prop := encode i &&& 0xF00000000#36 = tableMatch i

/-- Any word made of an operation code and an operand, under the table's mask. -/
theorem mask_append (op : BitVec 4) (arg : BitVec 32) :
    (op ++ arg) &&& 0xF00000000#36 = op ++ 0#32 := by
  have h : (0xF00000000#36 : BitVec 36) = 0xF#4 ++ 0#32 := by decide
  rw [h, BitVec.and_append]
  congr 1
  · revert op; decide
  · simp

theorem step (arg : BitVec 32) : Statement (.step arg) :=
  (mask_append 0x1#4 arg).trans (show (0x1#4 ++ 0#32 : BitVec 36) = 0x100000000#36 by decide)

theorem setSpeed (arg : BitVec 32) : Statement (.setSpeed arg) :=
  (mask_append 0x2#4 arg).trans (show (0x2#4 ++ 0#32 : BitVec 36) = 0x200000000#36 by decide)

theorem getSpeed (arg : BitVec 32) : Statement (.getSpeed arg) :=
  (mask_append 0x3#4 arg).trans (show (0x3#4 ++ 0#32 : BitVec 36) = 0x300000000#36 by decide)

end Sys2Proof.Laws.EncodeMatchesTable
end

