-- ==== Sys2Proof/Laws/Registers.lean ====
section
/-! SUPPORT. The small lemmas of `STATUS` (R20), the modes (R7, R15) and the stride (R81, R82). -/

namespace Sys2Proof.Machine

section status
variable (v : BitVec 8) (b : Bool) (c : BitVec 4)

@[simp] theorem busy_setBusy : statusBusy (setBusy v b) = b := by revert v b; decide
@[simp] theorem cfgErr_setBusy : statusCfgErr (setBusy v b) = statusCfgErr v := by revert v b; decide
@[simp] theorem fault_setBusy : statusFault (setBusy v b) = statusFault v := by revert v b; decide
@[simp] theorem reserved_setBusy : statusReserved (setBusy v b) = statusReserved v := by revert v b; decide
@[simp] theorem cause_setBusy : statusCause (setBusy v b) = statusCause v := by revert v b; decide

@[simp] theorem busy_setFault : statusBusy (setFault v b) = statusBusy v := by revert v b; decide
@[simp] theorem cfgErr_setFault : statusCfgErr (setFault v b) = statusCfgErr v := by revert v b; decide
@[simp] theorem fault_setFault : statusFault (setFault v b) = b := by revert v b; decide
@[simp] theorem reserved_setFault : statusReserved (setFault v b) = statusReserved v := by revert v b; decide
@[simp] theorem cause_setFault : statusCause (setFault v b) = statusCause v := by revert v b; decide

@[simp] theorem busy_setCause : statusBusy (setCause v c) = statusBusy v := by
  simp [statusBusy, setCause]
@[simp] theorem cfgErr_setCause : statusCfgErr (setCause v c) = statusCfgErr v := by
  simp [statusCfgErr, setCause]
@[simp] theorem fault_setCause : statusFault (setCause v c) = statusFault v := by
  simp [statusFault, setCause]
@[simp] theorem reserved_setCause : statusReserved (setCause v c) = statusReserved v := by
  simp [statusReserved, setCause]
@[simp] theorem cause_setCause : statusCause (setCause v c) = c := by
  ext i hi
  have hi4 : i = 0 ∨ i = 1 ∨ i = 2 ∨ i = 3 := by omega
  rcases hi4 with rfl | rfl | rfl | rfl <;> simp [statusCause, setCause, BitVec.getLsbD_eq_getElem]

/-- What fault entry leaves in `STATUS` (R104). -/
theorem faultStatus_fields (f : FaultCause) :
    statusBusy (faultStatus v f) = false ∧ statusFault (faultStatus v f) = true ∧
    statusCause (faultStatus v f) = f.code ∧ statusCfgErr (faultStatus v f) = statusCfgErr v ∧
    statusReserved (faultStatus v f) = statusReserved v := by
  simp [faultStatus]

/-- `STATUS` after reset (R27, R103). -/
theorem resetStatus_fields (mode : BitVec 3) :
    statusBusy (resetStatus mode) = false ∧ statusFault (resetStatus mode) = false ∧
    statusCause (resetStatus mode) = 0#4 ∧ statusCfgErr (resetStatus mode) = decide (4 < mode.toNat) ∧
    statusReserved (resetStatus mode) = false := by
  revert mode; decide

end status

section modes
variable (m : StepMode)

/-- The ordinal of a mode stands for that mode (R7). -/
@[simp] theorem ofBits_ordinal : StepMode.ofBits m.ordinal = some m := by cases m <;> rfl

/-- A 3-bit value stands for the mode whose ordinal it is, and for no other (R7). -/
theorem ofBits_eq_some (b : BitVec 3) : StepMode.ofBits b = some m ↔ b = m.ordinal := by
  revert b; cases m <;> decide

/-- The values 0 to 4 are the modes (R15). -/
theorem ofBits_isSome (b : BitVec 3) : (∃ m, StepMode.ofBits b = some m) ↔ b.toNat ≤ 4 := by
  constructor
  · rintro ⟨m, h⟩
    rw [ofBits_eq_some] at h
    subst h
    cases m <;> decide
  · intro h
    have hs : (StepMode.ofBits b).isSome = true := by revert b; decide
    exact Option.isSome_iff_exists.mp hs

/-- `stepMode` depends on `MODE` alone (R16). -/
theorem stepMode_congr {s t : State} (h : t.mode = s.mode) : t.stepMode = s.stepMode := by
  simp [State.stepMode, h]

/-- A stride is 1, 2, 4, 8 or 16. -/
theorem stride_pos : 0 < stride m := by cases m <;> decide

/-- A sweep has at least four emissions. -/
theorem sweepLen_pos : 0 < sweepLen m := by cases m <;> decide

/-- A sweep has at most 64 emissions. -/
theorem sweepLen_le : sweepLen m ≤ 64 := by cases m <;> decide

/-- A sweep goes once around the 64 positions. -/
theorem stride_times_sweepLen : stride m * sweepLen m = 64 := by cases m <;> decide

end modes
end Sys2Proof.Machine
end

