-- ==== Sys2Proof/Laws/State.lean ====
section
/-! SUPPORT. One lemma per field per named update of the state, each true by definition, so that no proof unfolds
an update. -/

namespace Sys2Proof.Machine

section record
variable (s : State) (e : Event)

@[simp] theorem State.record_params : (s.record e).params = s.params := rfl
@[simp] theorem State.record_pinId : (s.record e).pinId = s.pinId := rfl
@[simp] theorem State.record_mode : (s.record e).mode = s.mode := rfl
@[simp] theorem State.record_speed : (s.record e).speed = s.speed := rfl
@[simp] theorem State.record_pos : (s.record e).pos = s.pos := rfl
@[simp] theorem State.record_dutyOut : (s.record e).dutyOut = s.dutyOut := rfl
@[simp] theorem State.record_status : (s.record e).status = s.status := rfl
@[simp] theorem State.record_phase : (s.record e).phase = s.phase := rfl
@[simp] theorem State.record_rem : (s.record e).rem = s.rem := rfl
@[simp] theorem State.record_j : (s.record e).j = s.j := rfl
@[simp] theorem State.record_dir : (s.record e).dir = s.dir := rfl
@[simp] theorem State.record_dly : (s.record e).dly = s.dly := rfl
@[simp] theorem State.record_tmr : (s.record e).tmr = s.tmr := rfl
@[simp] theorem State.record_trace : (s.record e).trace = s.trace ++ [e] := rfl
@[simp] theorem State.record_requests : (s.record e).requests = s.requests := rfl
@[simp] theorem State.record_inputs : (s.record e).inputs = s.inputs := rfl

end record

section complete
variable (s : State) (op : CommandName) (r : BitVec 32)

@[simp] theorem State.complete_params : (s.complete op r).params = s.params := rfl
@[simp] theorem State.complete_pinId : (s.complete op r).pinId = s.pinId := rfl
@[simp] theorem State.complete_mode : (s.complete op r).mode = s.mode := rfl
@[simp] theorem State.complete_speed : (s.complete op r).speed = s.speed := rfl
@[simp] theorem State.complete_pos : (s.complete op r).pos = s.pos := rfl
@[simp] theorem State.complete_dutyOut : (s.complete op r).dutyOut = s.dutyOut := rfl
@[simp] theorem State.complete_status : (s.complete op r).status = s.status := rfl
@[simp] theorem State.complete_phase : (s.complete op r).phase = s.phase := rfl
@[simp] theorem State.complete_rem : (s.complete op r).rem = s.rem := rfl
@[simp] theorem State.complete_j : (s.complete op r).j = s.j := rfl
@[simp] theorem State.complete_dir : (s.complete op r).dir = s.dir := rfl
@[simp] theorem State.complete_dly : (s.complete op r).dly = s.dly := rfl
@[simp] theorem State.complete_tmr : (s.complete op r).tmr = s.tmr := rfl
@[simp] theorem State.complete_trace : (s.complete op r).trace = s.trace ++ [.done op r] := rfl
@[simp] theorem State.complete_requests : (s.complete op r).requests = s.requests := rfl
@[simp] theorem State.complete_inputs : (s.complete op r).inputs = s.inputs := rfl

end complete

section enterFault
variable (s : State) (c : FaultCause)

@[simp] theorem State.enterFault_params : (s.enterFault c).params = s.params := rfl
@[simp] theorem State.enterFault_pinId : (s.enterFault c).pinId = s.pinId := rfl
@[simp] theorem State.enterFault_mode : (s.enterFault c).mode = s.mode := rfl
@[simp] theorem State.enterFault_speed : (s.enterFault c).speed = s.speed := rfl
@[simp] theorem State.enterFault_pos : (s.enterFault c).pos = s.pos := rfl
@[simp] theorem State.enterFault_dutyOut : (s.enterFault c).dutyOut = s.dutyOut := rfl
@[simp] theorem State.enterFault_status : (s.enterFault c).status = faultStatus s.status c := rfl
@[simp] theorem State.enterFault_phase : (s.enterFault c).phase = .halt := rfl
@[simp] theorem State.enterFault_rem : (s.enterFault c).rem = s.rem := rfl
@[simp] theorem State.enterFault_j : (s.enterFault c).j = s.j := rfl
@[simp] theorem State.enterFault_dir : (s.enterFault c).dir = s.dir := rfl
@[simp] theorem State.enterFault_dly : (s.enterFault c).dly = s.dly := rfl
@[simp] theorem State.enterFault_tmr : (s.enterFault c).tmr = s.tmr := rfl
@[simp] theorem State.enterFault_trace : (s.enterFault c).trace = s.trace ++ [.fault c] := rfl
@[simp] theorem State.enterFault_requests : (s.enterFault c).requests = s.requests := rfl
@[simp] theorem State.enterFault_inputs : (s.enterFault c).inputs = s.inputs := rfl

end enterFault

section construct
variable (s : State) (pins : Lanes (BitVec 8)) (mode : BitVec 3)

@[simp] theorem State.construct_params : (s.construct pins mode).params = s.params := rfl
@[simp] theorem State.construct_pinId : (s.construct pins mode).pinId = pins := rfl
@[simp] theorem State.construct_mode : (s.construct pins mode).mode = mode := rfl
@[simp] theorem State.construct_speed : (s.construct pins mode).speed = s.params.speedReset := rfl
@[simp] theorem State.construct_pos : (s.construct pins mode).pos = resetPos mode := rfl
@[simp] theorem State.construct_dutyOut : (s.construct pins mode).dutyOut = ⟨0, 0, 0, 0⟩ := rfl
@[simp] theorem State.construct_status : (s.construct pins mode).status = resetStatus mode := rfl
@[simp] theorem State.construct_phase : (s.construct pins mode).phase = .idle := rfl
@[simp] theorem State.construct_rem : (s.construct pins mode).rem = 0#32 := rfl
@[simp] theorem State.construct_j : (s.construct pins mode).j = 0#6 := rfl
@[simp] theorem State.construct_dir : (s.construct pins mode).dir = .forward := rfl
@[simp] theorem State.construct_dly : (s.construct pins mode).dly = 0#32 := rfl
@[simp] theorem State.construct_tmr : (s.construct pins mode).tmr = 0#32 := rfl
@[simp] theorem State.construct_trace : (s.construct pins mode).trace = s.trace ++ [.cfgOut pins] := rfl
@[simp] theorem State.construct_requests : (s.construct pins mode).requests = s.requests := rfl
@[simp] theorem State.construct_inputs : (s.construct pins mode).inputs = s.inputs := rfl

end construct

section emitQuad
variable (s : State) (i : BitVec 6)

@[simp] theorem State.emitQuad_params : (s.emitQuad i).params = s.params := rfl
@[simp] theorem State.emitQuad_pinId : (s.emitQuad i).pinId = s.pinId := rfl
@[simp] theorem State.emitQuad_mode : (s.emitQuad i).mode = s.mode := rfl
@[simp] theorem State.emitQuad_speed : (s.emitQuad i).speed = s.speed := rfl
@[simp] theorem State.emitQuad_pos : (s.emitQuad i).pos = s.pos := rfl
@[simp] theorem State.emitQuad_dutyOut : (s.emitQuad i).dutyOut = quad s.params i := rfl
@[simp] theorem State.emitQuad_status : (s.emitQuad i).status = s.status := rfl
@[simp] theorem State.emitQuad_phase : (s.emitQuad i).phase = s.phase := rfl
@[simp] theorem State.emitQuad_rem : (s.emitQuad i).rem = s.rem := rfl
@[simp] theorem State.emitQuad_j : (s.emitQuad i).j = s.j := rfl
@[simp] theorem State.emitQuad_dir : (s.emitQuad i).dir = s.dir := rfl
@[simp] theorem State.emitQuad_dly : (s.emitQuad i).dly = s.dly := rfl
@[simp] theorem State.emitQuad_tmr : (s.emitQuad i).tmr = s.tmr := rfl
@[simp] theorem State.emitQuad_trace :
    (s.emitQuad i).trace = s.trace ++ [.write4 (mux s.pinId (quad s.params i))] := rfl
@[simp] theorem State.emitQuad_requests : (s.emitQuad i).requests = s.requests := rfl
@[simp] theorem State.emitQuad_inputs : (s.emitQuad i).inputs = s.inputs := rfl

end emitQuad

section beginSweeps
variable (s : State) (m : StepMode) (c : Int)

@[simp] theorem State.beginSweeps_params : (s.beginSweeps m c).params = s.params := rfl
@[simp] theorem State.beginSweeps_pinId : (s.beginSweeps m c).pinId = s.pinId := rfl
@[simp] theorem State.beginSweeps_mode : (s.beginSweeps m c).mode = s.mode := rfl
@[simp] theorem State.beginSweeps_speed : (s.beginSweeps m c).speed = s.speed := rfl
@[simp] theorem State.beginSweeps_pos :
    (s.beginSweeps m c).pos = match s.params.indexPolicy with
      | .restart => restartPos m (directionOf c)
      | .persist => s.pos := rfl
@[simp] theorem State.beginSweeps_dutyOut : (s.beginSweeps m c).dutyOut = s.dutyOut := rfl
@[simp] theorem State.beginSweeps_status : (s.beginSweeps m c).status = setBusy s.status true := rfl
@[simp] theorem State.beginSweeps_phase : (s.beginSweeps m c).phase = .emit := rfl
@[simp] theorem State.beginSweeps_rem : (s.beginSweeps m c).rem = sweepCount c := rfl
@[simp] theorem State.beginSweeps_j : (s.beginSweeps m c).j = 0#6 := rfl
@[simp] theorem State.beginSweeps_dir : (s.beginSweeps m c).dir = directionOf c := rfl
@[simp] theorem State.beginSweeps_dly : (s.beginSweeps m c).dly = delay s.speed m := rfl
@[simp] theorem State.beginSweeps_tmr : (s.beginSweeps m c).tmr = s.tmr := rfl
@[simp] theorem State.beginSweeps_trace : (s.beginSweeps m c).trace = s.trace := rfl
@[simp] theorem State.beginSweeps_requests : (s.beginSweeps m c).requests = s.requests := rfl
@[simp] theorem State.beginSweeps_inputs : (s.beginSweeps m c).inputs = s.inputs := rfl

end beginSweeps

section emission
variable (s : State) (m : StepMode)

@[simp] theorem State.emission_params : (s.emission m).params = s.params := rfl
@[simp] theorem State.emission_pinId : (s.emission m).pinId = s.pinId := rfl
@[simp] theorem State.emission_mode : (s.emission m).mode = s.mode := rfl
@[simp] theorem State.emission_speed : (s.emission m).speed = s.speed := rfl
@[simp] theorem State.emission_pos : (s.emission m).pos = nextIndex m s.dir s.pos := rfl
@[simp] theorem State.emission_dutyOut : (s.emission m).dutyOut = quad s.params (nextIndex m s.dir s.pos) := rfl
@[simp] theorem State.emission_status : (s.emission m).status = s.status := rfl
@[simp] theorem State.emission_phase : (s.emission m).phase = .wait := rfl
@[simp] theorem State.emission_rem : (s.emission m).rem = s.rem := rfl
@[simp] theorem State.emission_j : (s.emission m).j = s.j := rfl
@[simp] theorem State.emission_dir : (s.emission m).dir = s.dir := rfl
@[simp] theorem State.emission_dly : (s.emission m).dly = s.dly := rfl
@[simp] theorem State.emission_tmr : (s.emission m).tmr = s.dly := rfl
@[simp] theorem State.emission_trace :
    (s.emission m).trace = s.trace ++ [.write4 (mux s.pinId (quad s.params (nextIndex m s.dir s.pos)))] := rfl
@[simp] theorem State.emission_requests : (s.emission m).requests = s.requests := rfl
@[simp] theorem State.emission_inputs : (s.emission m).inputs = s.inputs := rfl

end emission

section takeInput
variable (s : State)

@[simp] theorem State.takeInput_params : s.takeInput.params = s.params := rfl
@[simp] theorem State.takeInput_pinId : s.takeInput.pinId = s.pinId := rfl
@[simp] theorem State.takeInput_mode : s.takeInput.mode = s.mode := rfl
@[simp] theorem State.takeInput_speed : s.takeInput.speed = s.speed := rfl
@[simp] theorem State.takeInput_pos : s.takeInput.pos = s.pos := rfl
@[simp] theorem State.takeInput_dutyOut : s.takeInput.dutyOut = s.dutyOut := rfl
@[simp] theorem State.takeInput_status : s.takeInput.status = s.status := rfl
@[simp] theorem State.takeInput_phase : s.takeInput.phase = s.phase := rfl
@[simp] theorem State.takeInput_rem : s.takeInput.rem = s.rem := rfl
@[simp] theorem State.takeInput_j : s.takeInput.j = s.j := rfl
@[simp] theorem State.takeInput_dir : s.takeInput.dir = s.dir := rfl
@[simp] theorem State.takeInput_dly : s.takeInput.dly = s.dly := rfl
@[simp] theorem State.takeInput_tmr : s.takeInput.tmr = s.tmr := rfl
@[simp] theorem State.takeInput_trace : s.takeInput.trace = s.trace := rfl
@[simp] theorem State.takeInput_requests : s.takeInput.requests = s.requests := rfl
@[simp] theorem State.takeInput_inputs : s.takeInput.inputs = s.inputs.tail := rfl

end takeInput

section presenting
variable (s : State) (cw : BitVec 36)

@[simp] theorem State.presenting_params : (s.presenting cw).params = s.params := rfl
@[simp] theorem State.presenting_pinId : (s.presenting cw).pinId = s.pinId := rfl
@[simp] theorem State.presenting_mode : (s.presenting cw).mode = s.mode := rfl
@[simp] theorem State.presenting_speed : (s.presenting cw).speed = s.speed := rfl
@[simp] theorem State.presenting_pos : (s.presenting cw).pos = s.pos := rfl
@[simp] theorem State.presenting_dutyOut : (s.presenting cw).dutyOut = s.dutyOut := rfl
@[simp] theorem State.presenting_status : (s.presenting cw).status = s.status := rfl
@[simp] theorem State.presenting_phase : (s.presenting cw).phase = .idle := rfl
@[simp] theorem State.presenting_rem : (s.presenting cw).rem = s.rem := rfl
@[simp] theorem State.presenting_j : (s.presenting cw).j = s.j := rfl
@[simp] theorem State.presenting_dir : (s.presenting cw).dir = s.dir := rfl
@[simp] theorem State.presenting_dly : (s.presenting cw).dly = s.dly := rfl
@[simp] theorem State.presenting_tmr : (s.presenting cw).tmr = s.tmr := rfl
@[simp] theorem State.presenting_trace : (s.presenting cw).trace = s.trace := rfl
@[simp] theorem State.presenting_requests : (s.presenting cw).requests = [cw] := rfl
@[simp] theorem State.presenting_inputs : (s.presenting cw).inputs = [] := rfl

end presenting

/-- Reset is construction from the two parts of the configuration word (R116). -/
theorem State.resetBlock_eq (s : State) (cfg : BitVec 35) :
    s.resetBlock cfg = s.construct (cfgPins cfg) (cfgMode cfg) := rfl

/-- `State.reset` is construction, from any state that has the parameters `Config.params`, no trace yet and
nothing presented. -/
theorem State.reset_eq_construct (s : State) (hp : s.params = Config.params) (ht : s.trace = [])
    (hr : s.requests = []) (hi : s.inputs = []) :
    State.reset = s.construct Config.cfgPins Config.defaultMode := by
  cases s
  simp_all [State.reset, State.construct, State.record, Config.params]

end Sys2Proof.Machine
end

