-- ==== Sys2Proof/Laws/Steps.lean ====
section
/-! SUPPORT. One inversion lemma per shared operation and per step function: everything it can do when it answers
a next state. -/

namespace Sys2Proof.Machine

variable {s t : State}

@[simp] theorem next_inj {a b : State} :
    (Host.Outcome.next a : Result) = .next b ↔ a = b := ⟨fun h => by cases h; rfl, fun h => h ▸ rfl⟩

/-- In IDLE a command has its effect (R52). -/
@[simp] theorem whenIdle_idle {e : Result} (h : s.phase = .idle) : s.whenIdle e = e := by
  simp [State.whenIdle, h]

/-- Outside IDLE it has none (R52). -/
@[simp] theorem whenIdle_held {e : Result} (h : s.phase ≠ .idle) : s.whenIdle e = .next s := by
  simp [State.whenIdle, h]

/-- What `whenIdle` can answer. -/
theorem whenIdle_cases {e : Result} (h : s.whenIdle e = .next t) :
    (s.phase = .idle ∧ e = .next t) ∨ (s.phase ≠ .idle ∧ t = s) := by
  by_cases hp : s.phase = .idle
  · exact .inl ⟨hp, by rwa [whenIdle_idle hp] at h⟩
  · exact .inr ⟨hp, by rw [whenIdle_held hp] at h; exact (next_inj.mp h).symm⟩

/-- What the EMIT step can do (R90). -/
theorem emitStep_cases (h : emitStep s = .next t) : ∃ m, s.stepMode = some m ∧ t = s.emission m := by
  unfold emitStep at h
  split at h
  · exact ⟨_, ‹_›, (next_inj.mp h).symm⟩
  · cases h

/-- What the WAIT step can do (R91, R92). -/
theorem waitStep_cases {tick : Bool} (h : waitStep tick s = .next t) :
    (s.tmr = 0#32 ∧ ∃ m, s.stepMode = some m ∧ t = s.endWait m) ∨
    (s.tmr ≠ 0#32 ∧ tick = true ∧ t = { s with tmr := s.tmr - 1#32 }) ∨
    (s.tmr ≠ 0#32 ∧ tick = false ∧ t = s) := by
  unfold waitStep at h
  split at h
  · split at h
    · exact .inl ⟨‹_›, _, ‹_›, (next_inj.mp h).symm⟩
    · cases h
  · split at h
    · exact .inr (.inl ⟨‹_›, ‹_›, (next_inj.mp h).symm⟩)
    · exact .inr (.inr ⟨‹_›, by simpa using ‹¬tick = true›, (next_inj.mp h).symm⟩)

/-- What the end of a wait leaves in each register (R92). -/
theorem endWait_fields (s : State) (m : StepMode) :
    (s.endWait m).params = s.params ∧ (s.endWait m).pinId = s.pinId ∧ (s.endWait m).mode = s.mode ∧
    (s.endWait m).speed = s.speed ∧ (s.endWait m).pos = s.pos ∧ (s.endWait m).dutyOut = s.dutyOut ∧
    (s.endWait m).rem = s.nextRem m ∧ (s.endWait m).j = s.nextJ m ∧ (s.endWait m).dir = s.dir ∧
    (s.endWait m).dly = s.dly ∧ (s.endWait m).tmr = s.tmr ∧ (s.endWait m).requests = s.requests ∧
    (s.endWait m).inputs = s.inputs := by
  unfold State.endWait
  split <;> simp

/-- The end of the last wait of a `STEP` (R92). -/
theorem endWait_last {m : StepMode} (h : s.nextRem m = 0#32) :
    s.endWait m = { s with
      j := s.nextJ m
      rem := 0#32
      phase := .idle
      status := setBusy s.status false
      trace := s.trace ++ [.delay s.dly.toNat, .done .step 0#32] } := by
  simp [State.endWait, h, State.complete, State.record]

/-- The end of any other wait (R92). -/
theorem endWait_more {m : StepMode} (h : s.nextRem m ≠ 0#32) :
    s.endWait m = { s with
      j := s.nextJ m
      rem := s.nextRem m
      phase := .emit
      trace := s.trace ++ [.delay s.dly.toNat] } := by
  simp [State.endWait, h, State.record]

/-- What a `STEP` can do at acceptance (R84). -/
theorem execStep_cases {arg : BitVec 32} (h : execStep arg s = .next t) :
    (s.phase ≠ .idle ∧ t = s) ∨
    (s.phase = .idle ∧ statusCfgErr s.status = true ∧ t = s.enterFault (.mode s.mode)) ∨
    (s.phase = .idle ∧ statusCfgErr s.status = false ∧ stepCount arg = 0 ∧ t = s.complete .step 0#32) ∨
    (s.phase = .idle ∧ statusCfgErr s.status = false ∧ stepCount arg ≠ 0 ∧ s.speed.toInt ≤ 0 ∧
      t = s.enterFault (.speed s.speed)) ∨
    (s.phase = .idle ∧ statusCfgErr s.status = false ∧ stepCount arg ≠ 0 ∧ 0 < s.speed.toInt ∧
      ∃ m, s.stepMode = some m ∧ t = s.beginSweeps m (stepCount arg)) := by
  unfold execStep at h
  obtain ⟨hp, h⟩ | ⟨hp, rfl⟩ := whenIdle_cases h
  · refine .inr ?_
    split at h
    · exact .inl ⟨hp, ‹_›, (next_inj.mp h).symm⟩
    · have hc : statusCfgErr s.status = false := by simpa using ‹¬_ = true›
      refine .inr ?_
      split at h
      · exact .inl ⟨hp, hc, ‹_›, (next_inj.mp h).symm⟩
      · refine .inr ?_
        split at h
        · by_cases hs : s.speed.toInt ≤ 0
          · simp only [hs, if_true] at h
            exact .inl ⟨hp, hc, ‹_›, hs, (next_inj.mp h).symm⟩
          · simp only [hs, if_false] at h
            exact .inr ⟨hp, hc, ‹_›, by omega, _, ‹_›, (next_inj.mp h).symm⟩
        · split at h
          · exact .inl ⟨hp, hc, ‹_›, ‹_›, (next_inj.mp h).symm⟩
          · cases h
  · exact .inl ⟨hp, rfl⟩

/-- What a `SET_SPEED` can do (R93). -/
theorem execSetSpeed_cases {arg : BitVec 32} (h : execSetSpeed arg s = .next t) :
    (s.phase ≠ .idle ∧ t = s) ∨
    (s.phase = .idle ∧ t = State.complete { s with speed := speedValue arg } .setSpeed 0#32) := by
  obtain ⟨hp, h⟩ | ⟨hp, rfl⟩ := whenIdle_cases h
  · exact .inr ⟨hp, (next_inj.mp h).symm⟩
  · exact .inl ⟨hp, rfl⟩

/-- What a `GET_SPEED` can do (R94). -/
theorem execGetSpeed_cases {arg : BitVec 32} (h : execGetSpeed arg s = .next t) :
    (s.phase ≠ .idle ∧ t = s) ∨ (s.phase = .idle ∧ t = s.complete .getSpeed s.speed) := by
  obtain ⟨hp, h⟩ | ⟨hp, rfl⟩ := whenIdle_cases h
  · exact .inr ⟨hp, (next_inj.mp h).symm⟩
  · exact .inl ⟨hp, rfl⟩

/-- What an accepted word can do (R52, R53). -/
theorem acceptCommand_cases {cw : BitVec 36} (h : acceptCommand cw s = .next t) :
    (∃ i, decode cw = .ok i ∧ exec i s = .next t) ∨
    (∃ e, decode cw = .error e ∧ t = s.enterFault (.illegalOp cw)) := by
  unfold acceptCommand at h
  split at h
  · exact .inl ⟨_, ‹_›, h⟩
  · exact .inr ⟨_, ‹_›, (next_inj.mp h).symm⟩

/-- What IDLE can do (R52). -/
theorem idleStep_cases (h : idleStep s = .next t) :
    (s.requests = [] ∧ t = s) ∨
    (∃ cw rest, s.requests = cw :: rest ∧ acceptCommand cw { s with requests := rest } = .next t) := by
  unfold idleStep at h
  split at h
  · exact .inl ⟨‹_›, (next_inj.mp h).symm⟩
  · exact .inr ⟨_, _, ‹_›, h⟩

/-- What the block can do at a step without a reset (R22). -/
theorem advance_cases {tick : Bool} (h : advance tick s = .next t) :
    (s.phase = .idle ∧ idleStep s = .next t) ∨ (s.phase = .emit ∧ emitStep s = .next t) ∨
    (s.phase = .wait ∧ waitStep tick s = .next t) ∨ (s.phase = .halt ∧ t = s) := by
  unfold advance at h
  split at h
  · exact .inl ⟨‹_›, h⟩
  · exact .inr (.inl ⟨‹_›, h⟩)
  · exact .inr (.inr (.inl ⟨‹_›, h⟩))
  · exact .inr (.inr (.inr ⟨‹_›, (next_inj.mp h).symm⟩))

/-- What a step can do: a reset, or the block's own step on the state whose input has been taken (R106). -/
theorem step_cases (h : step s = .next t) :
    (∃ cfg, s.nextInput = .reset cfg ∧ t = s.takeInput.resetBlock cfg) ∨
    (∃ tick, s.nextInput = (if tick then .tick else .quiet) ∧ advance tick s.takeInput = .next t) := by
  unfold step stepWith at h
  split at h
  · exact .inl ⟨_, ‹_›, (next_inj.mp h).symm⟩
  · exact .inr ⟨true, by simpa using ‹_›, h⟩
  · exact .inr ⟨false, by simpa using ‹_›, h⟩

end Sys2Proof.Machine
end

