-- ==== Sys2Proof/Machine/Assembly.lean ====
section
/-! DEFINITION. The assembly syntax of R59: one line of text to a command word or a configuration word. A line is
a list of characters, so that the kernel can evaluate it. There are no pseudo-instructions (R60). -/

namespace Sys2Proof.Machine

/-- What a line stands for. -/
inductive AsmLine where
  /-- Nothing but a comment or blanks. -/
  | empty
  /-- A command word. -/
  | command (cw : BitVec 36)
  /-- `.reset`: not a command but a configuration word and a reset (R59, R116). -/
  | reset (cfg : BitVec 35)
deriving DecidableEq, Repr

/-- A line without its comment, which `;` starts (R59). -/
def asmCode (line : List Char) : List Char := line.takeWhile (· ≠ ';')

/-- The parts of a text between separators, with the part begun so far reversed in `acc`. -/
def splitAtSep (sep : Char → Bool) (acc : List Char) (text : List Char) : List (List Char) :=
  match text with
  | [] => [acc.reverse]
  | c :: cs => if sep c then acc.reverse :: splitAtSep sep [] cs else splitAtSep sep (c :: acc) cs

/-- The words of a line, blanks dropped. -/
def asmWords (line : List Char) : List (List Char) :=
  (splitAtSep (fun c => c = ' ' || c = '\t') [] (asmCode line)).filter (· ≠ [])

/-- The value of a digit, hexadecimal letters in either case. -/
def digitValue (c : Char) : Option Nat :=
  if '0'.toNat ≤ c.toNat ∧ c.toNat ≤ '9'.toNat then some (c.toNat - '0'.toNat)
  else if 'a'.toNat ≤ c.toNat ∧ c.toNat ≤ 'f'.toNat then some (c.toNat - 'a'.toNat + 10)
  else if 'A'.toNat ≤ c.toNat ∧ c.toNat ≤ 'F'.toNat then some (c.toNat - 'A'.toNat + 10)
  else none

/-- A run of digits in a base, after the value read so far. -/
def digitsFrom (base acc : Nat) (ds : List Char) : Option Nat :=
  match ds with
  | [] => some acc
  | d :: rest =>
    match digitValue d with
    | some v => if v < base then digitsFrom base (acc * base + v) rest else none
    | none => none

/-- An unsigned number: at least one digit. -/
def unsignedNumber (base : Nat) (ds : List Char) : Option Nat :=
  if ds = [] then none else digitsFrom base 0 ds

/-- An operand: a signed decimal of 32 bits or a `0x` pattern of 32 bits (R59). -/
def asmOperand (w : List Char) : Option (BitVec 32) :=
  match w with
  | '0' :: 'x' :: hex =>
    (unsignedNumber 16 hex).bind fun n => if n < 2 ^ 32 then some (BitVec.ofNat 32 n) else none
  | '-' :: ds =>
    (unsignedNumber 10 ds).bind fun n => if n ≤ 2 ^ 31 then some (-(BitVec.ofNat 32 n)) else none
  | ds => (unsignedNumber 10 ds).bind fun n => if n < 2 ^ 31 then some (BitVec.ofNat 32 n) else none

/-- The mode of a `mode=` word: a name of R7 or a number of 3 bits. -/
def asmMode (w : List Char) : Option (BitVec 3) :=
  if w = "FULL".toList then some 0#3
  else if w = "HALF".toList then some 1#3
  else if w = "QUARTER".toList then some 2#3
  else if w = "EIGHTH".toList then some 3#3
  else if w = "SIXTEENTH".toList then some 4#3
  else (unsignedNumber 10 w).bind fun n => if n < 8 then some (BitVec.ofNat 3 n) else none

/-- A pin identifier of 8 bits. -/
def asmPin (w : List Char) : Option (BitVec 8) :=
  (unsignedNumber 10 w).bind fun n => if n < 256 then some (BitVec.ofNat 8 n) else none

/-- The four pins of a `pins=` word. -/
def asmPins (w : List Char) : Option (Lanes (BitVec 8)) :=
  match splitAtSep (· = ',') [] w with
  | [a, b, c, d] =>
    (asmPin a).bind fun a => (asmPin b).bind fun b => (asmPin c).bind fun c => (asmPin d).bind fun d =>
      some ⟨a, b, c, d⟩
  | _ => none

/-- The rest of a word after a key, if the word begins with it. -/
def afterKey (key w : List Char) : Option (List Char) :=
  if key.isPrefixOf w then some (w.drop key.length) else none

/-- The configuration word of a `.reset` directive; without `mode=` the mode is `SIXTEENTH` (R55, R59). -/
def asmReset (args : List (List Char)) : Option (BitVec 35) :=
  match args with
  | [p] => ((afterKey "pins=".toList p).bind asmPins).bind fun pins => some (cfgWord pins none)
  | [p, m] =>
    ((afterKey "pins=".toList p).bind asmPins).bind fun pins =>
      ((afterKey "mode=".toList m).bind asmMode).bind fun mode => some (cfgWord pins (some mode))
  | _ => none

/-- One line of assembly (R59); `none` for a line that is not of the syntax. -/
def assembleLine (line : List Char) : Option AsmLine :=
  match asmWords line with
  | [] => some .empty
  | w :: args =>
    if w = "STEP".toList then
      match args with
      | [a] => (asmOperand a).bind fun v => some (.command (encode (.step v)))
      | _ => none
    else if w = "SET_SPEED".toList then
      match args with
      | [a] => (asmOperand a).bind fun v => some (.command (encode (.setSpeed v)))
      | _ => none
    else if w = "GET_SPEED".toList then
      match args with
      | [] => some (.command (encode (.getSpeed 0#32)))
      | _ => none
    else if w = ".reset".toList then (asmReset args).bind fun cfg => some (.reset cfg)
    else none

end Sys2Proof.Machine
end

