-- ==== Sys2Proof/WellFormed.lean ====
section
/-! DEFINITION. What a host that follows the spec writes. -/

namespace Sys2Proof

/-- The one rule the spec gives to whoever writes a command: software writes 0 in `GET_SPEED`'s `ARG` (R51,
R59). Every operand of `STEP` and `SET_SPEED` is legal (R50, R51). The block checks nothing of this: it accepts
and ignores any `ARG` of `GET_SPEED` (U16), so the decoder, `exec` and `step` do not consult this check
(log 19). -/
def Instr.wellFormed (i : Instr) : Bool :=
  match i with
  | .step _ => true
  | .setSpeed _ => true
  | .getSpeed arg => arg == 0#32

end Sys2Proof
end

