-- ==== Sys2Proof/Tests/Slice0.lean ====
section
/-! SUPPORT. Tests whose expected values are the ones `95_test_vectors.md` lists (the section or program stands beside each),
and one witness for each statement that has hypotheses: a state and operands that meet all of them. -/

namespace Sys2Proof.Tests
open Sys2Proof Sys2Proof.Machine

/-- The fixture ROM of `95_test_vectors.md` section 2. -/
def fixtureRom : Vector (BitVec 16) 16 := Vector.ofFn fun p => BitVec.ofNat 16 ((255 - 17 * p.val) * 256 + 17 * p.val)

/-- The fixture parameters. -/
def fixture (policy : IndexPolicy) (dutyMax : Nat) : Params :=
  { phaseRom := fixtureRom, dutyMax := dutyMax, indexPolicy := policy, speedReset := 7#32 }

/-- A block after a reset with a configuration word, from a halted state whose registers all hold something else. -/
def afterReset (policy : IndexPolicy) (dutyMax : Nat) (cfg : BitVec 35) : State :=
  State.resetBlock
    { params := fixture policy dutyMax, pinId := ⟨9, 9, 9, 9⟩, mode := 7, speed := 3, pos := 5, dutyOut := ⟨1, 2, 3, 4⟩,
      status := 0x14, phase := .halt, rem := 1, j := 1, dir := .backward, dly := 1, tmr := 1, trace := [],
      requests := [], inputs := [] } cfg

/-- The block of P1 of `95_test_vectors.md` section 5, with `SPEED` = 1000 and nothing recorded yet. -/
def ready : State := { afterReset .restart 1023 0x00D0C0504#35 with speed := 1000#32, trace := [] }

/-- The same block with one command word presented. -/
def given (cw : BitVec 36) : State := ready.presenting cw

/-- What a run ends in, asked of its state; a stop answers false. -/
def holds (r : Result) (check : State → Bool) : Bool :=
  match r with
  | .next t => check t
  | .fault _ => false
  | .refused _ => false

-- ---- decoding: the words of R48 to R51, written out from the spec's fields ----

/-- `OP` 0001, `ARG` all ones: 3.10 `STEP -1`. -/
theorem test_decode_step : decode (0b0001#4 ++ 0b11111111111111111111111111111111#32) = .ok (.step (-1#32)) := by decide

/-- `OP` 0010, `ARG` 1111101000: 3.10 `SET_SPEED 1000`. -/
theorem test_decode_setSpeed :
    decode 0b001000000000000000000000001111101000#36 = .ok (.setSpeed 1000#32) := by decide

/-- `OP` 0011, `ARG` 0: 3.10 `GET_SPEED`. -/
theorem test_decode_getSpeed :
    decode 0b001100000000000000000000000000000000#36 = .ok (.getSpeed 0#32) := by decide

/-- `OP` 0 and 4 to 15 are illegal (R53). -/
theorem test_decode_illegal : ∀ op : BitVec 4, op ≠ 1#4 → op ≠ 2#4 → op ≠ 3#4 →
    decode (op ++ 1#32) = .error (.illegalOp op) := by decide

/-- The encoder writes the words of 3.10. -/
theorem test_encode : encode (.step 0x80000000#32) = 0x180000000#36 ∧ encode (.setSpeed 801#32) = 0x200000321#36 ∧
    encode (.setSpeed (-5#32)) = 0x2FFFFFFFB#36 ∧ encode (.getSpeed 0#32) = 0x300000000#36 := by decide

/-- The decoder as the host's table asks for it, in 36 bits and in 40. -/
theorem test_decodeTableWord : decodeTableWord 36 0x100000001 = some (.step 1#32) ∧
    decodeTableWord 40 0x2000003E8 = some (.setSpeed 1000#32) ∧ decodeTableWord 40 0x1300000000 = none ∧
    decodeTableWord 36 0xF00000001 = none := by decide

/-- An ill-formed term: software writes 0 in the operand of `GET_SPEED` (R51). -/
theorem test_wellFormed_refuses : (Instr.getSpeed 1#32).wellFormed = false := by decide

/-- Well-formed terms: every operand of the other two (R50, R51). -/
theorem test_wellFormed_accepts : (Instr.getSpeed 0#32).wellFormed = true ∧
    (Instr.step 0x80000000#32).wellFormed = true ∧ (Instr.setSpeed 0xFFFFFFFB#32).wellFormed = true := by decide

/-- Lines of R59 with the words of 3.10 and section 5. -/
theorem test_assembler : assembleLine "STEP -1 ; back".toList = some (.command 0x1FFFFFFFF#36) ∧
    assembleLine "STEP -2147483648".toList = some (.command 0x180000000#36) ∧
    assembleLine "SET_SPEED 0xFFFFFFFB".toList = some (.command 0x2FFFFFFFB#36) ∧
    assembleLine "GET_SPEED".toList = some (.command 0x300000000#36) := by decide

/-- Directives of section 5, a blank line, and lines that are not of the syntax. -/
theorem test_assembler_reset :
    assembleLine ".reset pins=4,5,12,13 mode=FULL".toList = some (.reset 0x00D0C0504#35) ∧
    assembleLine ".reset pins=6,7,8,9".toList = some (.reset 0x409080706#35) ∧
    assembleLine "; nothing".toList = some .empty ∧
    assembleLine "STEP 2147483648".toList = none := by decide

-- ---- index decoder, ROM, unpacker, scaling: 3.1 to 3.5 ----

/-- 3.1. -/
theorem test_decodeIndex : decodeIndex 37#6 = ⟨5#4, 2#2⟩ ∧ decodeIndex 63#6 = ⟨15#4, 3#2⟩ ∧
    decodeIndex 16#6 = ⟨0#4, 1#2⟩ ∧ decodeIndex 15#6 = ⟨15#4, 0#2⟩ := by decide

/-- 3.1, wide inputs. -/
theorem test_decodeWide : decodeWide 64 = ⟨0#4, 0#2⟩ ∧ decodeWide 100 = ⟨4#4, 2#2⟩ ∧
    decodeWide (-1) = ⟨15#4, 3#2⟩ := by decide

/-- 3.2. -/
theorem test_romRead : romRead fixtureRom 8#4 = 0x7788#16 ∧ entryHigh 0x7788#16 = 0x77#8 ∧
    entryLow 0x7788#16 = 0x88#8 ∧ romRead fixtureRom 15#4 = 0x00FF#16 := by decide

/-- 3.3. -/
theorem test_lanes : laneBytes (unpackWord 0xAB12#16 0#2) = ⟨0x00, 0x00, 0x12, 0xAB⟩ ∧
    laneBytes (unpackWord 0xAB12#16 1#2) = ⟨0x00, 0x12, 0xAB, 0x00⟩ ∧
    laneBytes (unpackWord 0xAB12#16 2#2) = ⟨0x12, 0xAB, 0x00, 0x00⟩ ∧
    laneBytes (unpackWord 0xAB12#16 3#2) = ⟨0xAB, 0x00, 0x00, 0x12⟩ := by decide

/-- 3.3, the rows where only one term of the wraparound is not 0. -/
theorem test_wrap : unpackWord 0x00FF#16 3#2 = 0xFF000000#32 ∧ unpackWord 0xFF00#16 3#2 = 0x000000FF#32 ∧
    unpackWord 0xFFFF#16 3#2 = 0xFF0000FF#32 := by decide

/-- 3.4. -/
theorem test_scale : scale 1023 1#8 = 4 ∧ scale 1023 200#8 = 803 ∧ scale 1023 254#8 = 1019 ∧
    scale 1023 255#8 = 1024 ∧ scale 254 255#8 = 255 ∧ scale 255 128#8 = 128 := by decide

/-- 3.5. -/
theorem test_quad : quad (fixture .restart 254) 57#6 = ⟨102, 0, 0, 153⟩ ∧
    quad (fixture .restart 1023) 63#6 = ⟨0, 0, 0, 1024⟩ ∧ quad (fixture .restart 1023) 29#6 = ⟨0, 887, 136, 0⟩ ∧
    quad (fixture .restart 1023) 36#6 = ⟨273, 750, 0, 0⟩ := by decide

/-- 3.6. -/
theorem test_delay : delay 1000#32 .sixteenth = 62#32 ∧ delay 801#32 .eighth = 100#32 ∧
    delay 15#32 .sixteenth = 0#32 ∧ stride .quarter = 4 ∧ sweepLen .eighth = 32 := by decide

/-- Section 2: which of the named properties of R65 the fixture ROM has. -/
theorem test_fixture_properties : RomE0 (fixture .restart 254) ∧ ¬ RomE8 (fixture .restart 254) ∧
    RomSum (fixture .restart 254) ∧ RomMono (fixture .restart 254) ∧ RomRange (fixture .restart 254) ∧
    RomNonzero (fixture .restart 254) := by
  unfold RomE0 RomE8 RomSum RomMono RomRange RomNonzero
  exact ⟨by decide, by decide, ⟨255, by decide⟩, by decide, by decide, by decide⟩

-- ---- commands: 3.7 to 3.9 and section 5 ----

/-- P1: `STEP 1` in `FULL` enters EMIT; its first emission is index 0. -/
theorem test_step_first_emission : holds (runSteps 2 (given 0x100000001#36)) (fun t =>
    t.pos == 0#6 && t.dutyOut == ⟨0, 0, 0, 1024⟩ && t.tmr == 1000#32 && t.status == 0x01#8 && t.phase == .wait &&
    t.trace == [.write4 ⟨(4, 0), (5, 0), (12, 0), (13, 1024)⟩]) = true := by decide

/-- 3.7, `FULL`, `PERSIST`, `STEP -1` from reset: the first index is 32. -/
theorem test_step_persist_backward :
    holds (runSteps 2 { (given 0x1FFFFFFFF#36) with params := fixture .persist 1023 }) (fun t =>
      t.pos == 32#6 && t.dutyOut == ⟨0, 1024, 0, 0⟩ && t.dir == .backward && t.rem == 1#32) = true := by decide

/-- 3.9: `STEP 2` while `SPEED` is 0. -/
theorem test_step_speed_fault : holds (step { (given 0x100000002#36) with speed := 0#32 }) (fun t =>
    t.status == 0x34#8 && t.phase == .halt && t.trace == [.fault (.speed 0#32)]) = true := by decide

/-- P4: `STEP 0` in mode 5. -/
theorem test_step_mode_fault :
    holds (step ((afterReset .persist 254 0x504030201#35).presenting 0x100000000#36)) (fun t =>
      t.status == 0x26#8 && t.trace == [.cfgOut ⟨1, 2, 3, 4⟩, .fault (.mode 5#3)]) = true := by decide

/-- 3.8: `SET_SPEED -5`, which no bounds check turns away. -/
theorem test_setSpeed : holds (step (given 0x2FFFFFFFB#36)) (fun t =>
    t.speed == 0xFFFFFFFB#32 && t.trace == [.done .setSpeed 0#32] && t.phase == .idle) = true := by decide

/-- 3.8: `GET_SPEED` with `ARG` = 0x12345678. -/
theorem test_getSpeed : holds (step (given 0x312345678#36)) (fun t =>
    t.trace == [.done .getSpeed 1000#32] && t.speed == 1000#32) = true := by decide

/-- 3.9: an illegal word, with `CFG_ERR` = 1. -/
theorem test_illegal : holds (step ((afterReset .restart 254 0x504030201#35).presenting 0xF00000001#36)) (fun t =>
    t.status == 0x16#8 && t.trace == [.cfgOut ⟨1, 2, 3, 4⟩, .fault (.illegalOp 0xF00000001#36)]) = true := by decide

/-- 3.11. -/
theorem test_reset : (afterReset .restart 254 0x00D0C0504#35).pinId = ⟨4, 5, 12, 13⟩ ∧
    (afterReset .restart 254 0x00D0C0504#35).pos = 48#6 ∧ (afterReset .restart 254 0x403020100#35).pos = 63#6 ∧
    (afterReset .restart 254 0x504030201#35).pos = 0#6 ∧ (afterReset .restart 254 0x504030201#35).status = 0x02#8 ∧
    (afterReset .restart 254 0x504030201#35).phase = .idle := by decide

/-- The last wait of a `STEP` ends it (R92): `DELAY`, `DONE`, IDLE. -/
theorem test_wait_ends : holds (step { ready with phase := .wait, status := 0x01#8, rem := 1#32, j := 3#6 }) (fun t =>
    t.phase == .idle && t.status == 0x00#8 && t.rem == 0#32 && t.j == 0#6 &&
    t.trace == [.delay 0, .done .step 0#32]) = true := by decide

/-- What `withFetchWord` presents is what the next step runs. -/
theorem test_withFetchWord : holds (step (ready.withFetchWord 36 0x200000064)) (fun t => t.speed == 100#32) = true := by
  decide

-- ---- witnesses: states that meet the hypotheses of the statements ----

/-- A running block in EMIT, one sweep to go. -/
def emitting : State := { ready with phase := .emit, status := 0x01#8, rem := 1#32, dly := 1000#32 }

/-- A running block in WAIT with time left. -/
def waiting : State := { emitting with phase := .wait, pos := 0#6, tmr := 1000#32 }

/-- A running block at the end of the last wait of its last sweep. -/
def waitOver : State := { emitting with phase := .wait, pos := 48#6, j := 3#6 }

/-- A block halted by `E_SPEED`. -/
def halted : State := { ready with phase := .halt, status := 0x34#8 }

/-- A block with mode 5. -/
def badMode : State := { afterReset .restart 254 0x504030201#35 with trace := [] }

/-- ResetConstructsTheBlock, ResetKeepsHeldRequests: a running block and a reset, with each of the clauses on the mode
(4, the last legal one, and 5). -/
theorem witness_reset :
    State.nextInput { waiting with inputs := [.reset 0x403020100#35] } = .reset 0x403020100#35 ∧
    (0x403020100#35).extractLsb' 32 3 = 4#3 ∧
    State.nextInput { waiting with inputs := [.reset 0x504030201#35] } = .reset 0x504030201#35 ∧
    (0x504030201#35).extractLsb' 32 3 = 5#3 := by decide

/-- ResetKeepsHeldRequests: the step that the second hypothesis asks for. -/
theorem witness_reset_step :
    ∃ t, step { waiting with inputs := [.reset 0x403020100#35], requests := [0x300000000#36] } = .next t := ⟨_, rfl⟩

/-- DecodeAndEncodeAgree: a word the second part speaks of. -/
theorem witness_decode : decode 0x17FFFFFFF#36 = .ok (.step 0x7FFFFFFF#32) := by decide

/-- IllegalOperationFaults, at the two ends of the illegal codes next to the legal ones. -/
theorem witness_illegal :
    (given 0x0FFFFFFFF#36).phase = .idle ∧ (∀ cfg, (given 0x0FFFFFFFF#36).nextInput ≠ .reset cfg) ∧
    (given 0x0FFFFFFFF#36).requests = 0x0FFFFFFFF#36 :: [] ∧
    (0x0FFFFFFFF#36).toNat / 2 ^ 32 = 0 ∧ (0x400000000#36).toNat / 2 ^ 32 = 4 := by
  exact ⟨rfl, nofun, rfl, by decide, by decide⟩

/-- StepRunsTheDecodedCommand. -/
theorem witness_decoded_command :
    (given 0x1FFFFFFFF#36).phase = .idle ∧ (∀ cfg, (given 0x1FFFFFFFF#36).nextInput ≠ .reset cfg) ∧
    (given 0x1FFFFFFFF#36).requests = 0x1FFFFFFFF#36 :: [] ∧ decode 0x1FFFFFFFF#36 = .ok (.step 0xFFFFFFFF#32) := by
  exact ⟨rfl, nofun, rfl, by decide⟩

/-- WideIndexIsReduced: the least width, and the two signs. -/
theorem witness_wide : 6 ≤ 6 ∧ reduceIndex (63#6).toInt = 63#6 ∧ reduceIndex (100#8).toNat = 36#6 := by decide

/-- LanesWalkBetweenIndices: index 14 (inside a pin offset), 15 and 63 (at the end of one). -/
theorem witness_lanes_walk :
    (((3 : Fin 4).val : Int) = (3 - ((decodeIndex 14#6).offset.toNat : Int)) % 4 ∧
      ((2 : Fin 4).val : Int) = (2 - ((decodeIndex 14#6).offset.toNat : Int)) % 4 ∧
      ((1 : Fin 4).val : Int) = (1 - ((decodeIndex 14#6).offset.toNat : Int)) % 4 ∧
      ((0 : Fin 4).val : Int) = (0 - ((decodeIndex 14#6).offset.toNat : Int)) % 4 ∧ (14#6).toNat % 16 < 15) ∧
    (((3 : Fin 4).val : Int) = (3 - ((decodeIndex 15#6).offset.toNat : Int)) % 4 ∧
      ((2 : Fin 4).val : Int) = (2 - ((decodeIndex 15#6).offset.toNat : Int)) % 4 ∧
      ((1 : Fin 4).val : Int) = (1 - ((decodeIndex 15#6).offset.toNat : Int)) % 4 ∧
      ((0 : Fin 4).val : Int) = (0 - ((decodeIndex 15#6).offset.toNat : Int)) % 4 ∧ (15#6).toNat % 16 = 15) ∧
    (((0 : Fin 4).val : Int) = (3 - ((decodeIndex 63#6).offset.toNat : Int)) % 4 ∧
      ((3 : Fin 4).val : Int) = (2 - ((decodeIndex 63#6).offset.toNat : Int)) % 4 ∧
      ((2 : Fin 4).val : Int) = (1 - ((decodeIndex 63#6).offset.toNat : Int)) % 4 ∧
      ((1 : Fin 4).val : Int) = (0 - ((decodeIndex 63#6).offset.toNat : Int)) % 4 ∧ (63#6).toNat % 16 = 15) := by decide

/-- SweepVisitsDistinctIndices: two equal positions inside a sweep. -/
theorem witness_sweep_visits : 3 < sweepLen .full ∧
    commandIndex .restart .full .backward 0#6 3 = commandIndex .restart .full .backward 0#6 3 := by decide

/-- SweepWaitIsAtMostFourSpeeds: the least speed, and one that 2^MODE divides. -/
theorem witness_sweep_wait : 0 < (1#32).toInt ∧ 0 < (1000#32).toInt ∧
    ((2 ^ StepMode.eighth.ordinal.toNat : Int) ∣ (1000#32).toInt) := by decide

/-- StepInIllegalModeFaults; the second clause of StepZeroIsANoOp. -/
theorem witness_illegal_mode : badMode.phase = .idle ∧ statusCfgErr badMode.status = true := by decide

/-- The first clause of StepZeroIsANoOp; SetSpeedStoresEveryValue; GetSpeedAnswersTheSpeed. -/
theorem witness_idle : ready.phase = .idle ∧ statusCfgErr ready.status = false := by decide

/-- StepWithoutSpeedFaults, at `SPEED` = 0. -/
theorem witness_no_speed : State.phase { ready with speed := 0#32 } = .idle ∧
    statusCfgErr (State.status { ready with speed := 0#32 }) = false ∧ 1#32 ≠ 0#32 ∧
    (State.speed { ready with speed := 0#32 }).toInt ≤ 0 := by decide

/-- StepBeginsItsSweeps: the most negative count under `PERSIST` with the least speed in mode 4, and a forward one. -/
theorem witness_step_begins :
    ((State.phase { afterReset .persist 254 0x403020100#35 with speed := 1#32 } = .idle ∧
      statusCfgErr (afterReset .persist 254 0x403020100#35).status = false ∧
      (afterReset .persist 254 0x403020100#35).mode.toNat ≤ 4 ∧ 0x80000000#32 ≠ 0#32 ∧ 0 < (1#32).toInt ∧
      (1#32).toInt < 2 ^ (afterReset .persist 254 0x403020100#35).mode.toNat)) ∧
    (ready.phase = .idle ∧ statusCfgErr ready.status = false ∧ ready.mode.toNat ≤ 4 ∧ 1#32 ≠ 0#32 ∧
      0 < ready.speed.toInt) := by decide

/-- SpeedSetIsReadBack. -/
theorem witness_read_back :
    State.phase { ready with requests := [0x2FFFFFFFB#36, 0x300000000#36] } = .idle ∧
    State.NoReset { ready with requests := [0x2FFFFFFFB#36, 0x300000000#36] } ∧
    State.requests { ready with requests := [0x2FFFFFFFB#36, 0x300000000#36] } =
      encode (.setSpeed (-5#32)) :: encode (.getSpeed 0#32) :: [] := by
  exact ⟨rfl, nofun, by decide⟩

/-- CommandHasNoEffectUnlessAccepted; RequestsAreHeldOutsideIdle. -/
theorem witness_held : emitting.phase ≠ .idle ∧ (∀ cfg, emitting.nextInput ≠ .reset cfg) ∧
    ∃ t, step emitting = .next t := by
  exact ⟨by decide, nofun, _, rfl⟩

/-- FaultEntryHalts: the state its last part speaks of; the second clause of OnlyResetLeavesHalt. -/
theorem witness_halt : halted.phase = .halt ∧ (∀ cfg, halted.nextInput ≠ .reset cfg) ∧
    ∃ t, step halted = .next t := by
  exact ⟨rfl, nofun, _, rfl⟩

/-- The first clause of OnlyResetLeavesHalt. -/
theorem witness_halt_reset : State.phase { halted with inputs := [.reset 0x403020100#35] } = .halt ∧
    (∃ t, step { halted with inputs := [.reset 0x403020100#35] } = .next t) ∧
    ∃ cfg, State.nextInput { halted with inputs := [.reset 0x403020100#35] } = .reset cfg := by
  exact ⟨rfl, ⟨_, rfl⟩, _, rfl⟩

/-- EmitStepEmitsTheNextIndex, in each direction across the end of the range: 48 + 16 to 0, 0 − 16 to 48. -/
theorem witness_emit :
    (emitting.phase = .emit ∧ emitting.mode.toNat ≤ 4 ∧
      ((0#6).toNat : Int) = ((emitting.pos.toNat : Int) + 16 / 2 ^ emitting.mode.toNat) % 64 ∧
      emitting.dir = .forward) ∧
    (((48#6).toNat : Int) = (((0#6).toNat : Int) - 16 / 2 ^ emitting.mode.toNat) % 64) ∧
    (∀ cfg, emitting.nextInput ≠ .reset cfg) := by
  exact ⟨by decide, by decide, nofun⟩

/-- WaitCountsTicks: each input, the first at the boundary `TMR` = 1 too. -/
theorem witness_wait : waiting.phase = .wait ∧ waiting.tmr ≠ 0#32 ∧ waiting.nextInput = .tick ∧
    State.nextInput { waiting with inputs := [.quiet] } = .quiet ∧
    State.tmr { waiting with tmr := 1#32 } ≠ 0#32 ∧ State.nextInput { waiting with tmr := 1#32 } = .tick := by decide

/-- WaitEndsAndCounts: the last wait of the command, the last of a sweep with another to come, one inside a sweep. -/
theorem witness_wait_ends :
    (waitOver.phase = .wait ∧ waitOver.tmr = 0#32 ∧ waitOver.mode.toNat ≤ 4 ∧
      0#6 = (if waitOver.j.toNat + 1 = 4 * 2 ^ waitOver.mode.toNat then 0#6 else waitOver.j + 1#6) ∧
      0#32 = (if waitOver.j.toNat + 1 = 4 * 2 ^ waitOver.mode.toNat then waitOver.rem - 1#32 else waitOver.rem)) ∧
    (1#32 = (if waitOver.j.toNat + 1 = 4 * 2 ^ waitOver.mode.toNat then 2#32 - 1#32 else 2#32)) ∧
    (3#6 = (if (2#6).toNat + 1 = 4 * 2 ^ waitOver.mode.toNat then 0#6 else 2#6 + 1#6)) ∧
    (∀ cfg, waitOver.nextInput ≠ .reset cfg) := by
  exact ⟨by decide, by decide, by decide, nofun⟩

/-- IdleWithoutRequestKeepsAll; TickMattersInWaitOnly. -/
theorem witness_idle_quiet : ready.phase = .idle ∧ ready.requests = [] ∧ (∀ cfg, ready.nextInput ≠ .reset cfg) ∧
    ready.phase ≠ .wait := by
  exact ⟨rfl, rfl, nofun, by decide⟩

/-- ConfigurationIsFixedBetweenResets, SpeedIsFixedWhileAStepRuns, OnlyEmissionsWritePins, TraceGrowsAndIsNeverRead: a step
in EMIT, one outside it, and one that changes `SPEED`. -/
theorem witness_steps :
    ((∀ cfg, emitting.nextInput ≠ .reset cfg) ∧ emitting.Running ∧ ∃ t, step emitting = .next t) ∧
    ((∀ cfg, waitOver.nextInput ≠ .reset cfg) ∧ waitOver.phase ≠ .emit ∧ ∃ t, step waitOver = .next t) ∧
    ((∀ cfg, (given 0x200000064#36).nextInput ≠ .reset cfg) ∧
      ∃ t, step (given 0x200000064#36) = .next t ∧ t.speed ≠ (given 0x200000064#36).speed) := by
  exact ⟨⟨nofun, .inl rfl, _, rfl⟩, ⟨nofun, by decide, _, rfl⟩, nofun, _, rfl, by decide⟩

/-- StepKeepsRegistersInAgreement, AgreeingStateNeverStops: a running block whose registers agree. -/
theorem witness_state_ok : StateOk waiting where
  cfgErr := by decide
  busy := ⟨fun _ => .inr rfl, fun _ => by decide⟩
  fault := by decide
  reserved := by decide
  noCause := by decide
  cause := by decide
  running := fun _ => ⟨.full, by decide⟩
  notRunning := fun h => absurd (.inr rfl) h
  dly := by decide
  tmr := by decide
  duty := by decide

/-- StepKeepsIndexOnItsSweep: the same block has its index on its sweep, and it has a next state. -/
theorem witness_pos_ok : PosOk waiting ∧ ∃ t, step waiting = .next t := by
  refine ⟨fun m hm => ?_, _, rfl⟩
  have hm' : m = .full := by cases m <;> first | rfl | exact absurd hm (by decide)
  subst hm'
  exact ⟨fun _ => by decide, fun h => absurd (.inr rfl) h⟩

/-- StepCommandRunsToDone. -/
theorem witness_step_command : ready.phase = .idle ∧ statusCfgErr ready.status = false ∧
    ready.stepMode = some .full ∧ 0xFFFFFFFF#32 ≠ 0#32 ∧ 0 < ready.speed.toInt ∧ ready.NoReset := by
  exact ⟨rfl, by decide, by decide, by decide, by decide, nofun⟩

/-- IndexAfterACommand, ReversalRepeatsUnderRestartOnly; BackwardCommandRetracesTheForwardOne at the first index and at the
one before the last. -/
theorem witness_counts : (-1 : Int) ≠ 0 ∧ 0 < (1 : Nat) ∧ 0 < 1 * sweepLen .full ∧
    2 < 1 * sweepLen .full ∧ 2 + 1 < 1 * sweepLen .full := by decide

end Sys2Proof.Tests
end

section
/-! SUPPORT. The parameters (R6). -/

namespace Sys2Proof.Proofs

/-- Settles O15: `DUTY_W` is one more than the binary logarithm of `DUTY_MAX + 1`, which is never 0, and that logarithm is
below `w` exactly when the number is below `2 ^ w`. -/
theorem dutyWidthIsTheLeast : Obligations.DutyWidthIsTheLeast := by
  intro dutyMax w
  calc dutyMax + 1 < 2 ^ w
    _ ↔ Nat.log2 (dutyMax + 1) < w := (Nat.log2_lt dutyMax.succ_ne_zero).symm
    _ ↔ Config.dutyWidth dutyMax ≤ w := Nat.succ_le_iff.symm

end Sys2Proof.Proofs
end

section
/-! SUPPORT. Facts of the four lanes, the duties and the numbers a `STEP` loads (R50, R75 to R83). -/

namespace Sys2Proof

@[simp] theorem Lanes.get_map {α β : Type} (f : α → β) (l : Lanes α) (k : Fin 4) :
    (l.map f).get k = f (l.get k) := by
  match k with
  | 0 | 1 | 2 | 3 => rfl

@[simp] theorem Lanes.get_zip {α β : Type} (l : Lanes α) (r : Lanes β) (k : Fin 4) :
    (l.zip r).get k = (l.get k, r.get k) := by
  match k with
  | 0 | 1 | 2 | 3 => rfl

namespace Machine

/-- Each pin of the mux takes the duty of its own lane (R77). -/
@[simp] theorem mux_get (pins : Lanes (BitVec 8)) (duties : Lanes Nat) (k : Fin 4) :
    (mux pins duties).get k = (pins.get k, duties.get k) := Lanes.get_zip pins duties k

/-- A byte is at most 255, so its duty is at most `DUTY_MAX + 1` (R76). -/
theorem scale_le (dutyMax : Nat) (b : BitVec 8) : scale dutyMax b ≤ dutyMax + 1 := by
  have hb : b.toNat ≤ 255 := Nat.le_of_lt_succ b.isLt
  calc b.toNat * (dutyMax + 1) / 255
    _ ≤ 255 * (dutyMax + 1) / 255 := Nat.div_le_div_right (Nat.mul_le_mul_right _ hb)
    _ = dutyMax + 1 := Nat.mul_div_cancel_left _ (by decide)

theorem quad_get_le (P : Params) (i : BitVec 6) (k : Fin 4) : (quad P i).get k ≤ P.dutyMax + 1 := by
  simpa [quad] using scale_le P.dutyMax _

theorem msb_of_toInt_pos {speed : BitVec 32} (h : 0 < speed.toInt) : speed.msb = false := by
  rw [BitVec.msb_eq_toInt]
  simpa using h.le

/-- The 32-bit value of a positive `SPEED` is a 31-bit number. -/
theorem toNat_lt_of_toInt_pos {speed : BitVec 32} (h : 0 < speed.toInt) : speed.toNat < 2 ^ 31 :=
  BitVec.toNat_lt_of_msb_false (msb_of_toInt_pos h)

/-- For a positive `SPEED` the arithmetic shift is the quotient by 2^MODE (R83). -/
theorem delay_toNat {speed : BitVec 32} (h : 0 < speed.toInt) (m : StepMode) :
    (delay speed m).toNat = speed.toNat / 2 ^ m.ordinal.toNat := by
  rw [delay, BitVec.sshiftRight_eq_of_msb_false (msb_of_toInt_pos h), BitVec.toNat_ushiftRight,
    Nat.shiftRight_eq_div_pow]

/-- The delay of a `STEP` that runs is a 31-bit value (R24). -/
theorem delay_lt {speed : BitVec 32} (h : 0 < speed.toInt) (m : StepMode) :
    (delay speed m).toNat < 2 ^ 31 := by
  rw [delay_toNat h]
  exact (Nat.div_le_self _ _).trans_lt (toNat_lt_of_toInt_pos h)

/-- A 32-bit count has at most 2^31 sweeps. -/
theorem natAbs_stepCount_le (arg : BitVec 32) : (stepCount arg).natAbs ≤ 2 ^ 31 := by
  have hlo : -2 ^ 31 ≤ arg.toInt := BitVec.le_toInt arg
  have hhi : arg.toInt < 2 ^ 31 := BitVec.toInt_lt
  unfold stepCount
  omega

/-- `REM` holds `|count|` exactly, −2^31 included (R50). -/
theorem sweepCount_toNat (arg : BitVec 32) : (sweepCount (stepCount arg)).toNat = (stepCount arg).natAbs := by
  have hle := natAbs_stepCount_le arg
  exact Nat.mod_eq_of_lt (by omega)

end Machine
end Sys2Proof
end

section
/-! SUPPORT. The counters `J` and `REM` at the end of a wait (R92), and the master index that a number of strides
reaches (R87, R88). -/

namespace Sys2Proof.Machine

variable {s : State} {m : StepMode}

theorem nextJ_of_sweepEnd (h : s.j.toNat + 1 = sweepLen m) : s.nextJ m = 0#6 := if_pos h

theorem nextRem_of_sweepEnd (h : s.j.toNat + 1 = sweepLen m) : s.nextRem m = s.rem - 1#32 := if_pos h

theorem nextRem_inside (h : s.j.toNat + 1 ≠ sweepLen m) : s.nextRem m = s.rem := if_neg h

/-- Inside a sweep `J + 1` is below n ≤ 64, so its 6 bits hold it (R92). -/
theorem nextJ_toNat_inside (hj : s.j.toNat < sweepLen m) (h : s.j.toNat + 1 ≠ sweepLen m) :
    (s.nextJ m).toNat = s.j.toNat + 1 := by
  have hlen := sweepLen_le m
  have hfits : s.j.toNat + (1#6).toNat < 2 ^ 6 := by simp; omega
  rw [State.nextJ, if_neg h, BitVec.toNat_add_of_lt hfits]
  rfl

/-- `J` stays below n (R23). -/
theorem nextJ_lt (hj : s.j.toNat < sweepLen m) : (s.nextJ m).toNat < sweepLen m := by
  by_cases h : s.j.toNat + 1 = sweepLen m
  · simpa [nextJ_of_sweepEnd h] using sweepLen_pos m
  · rw [nextJ_toNat_inside hj h]
    omega

/-- `REM` does not grow (R92). -/
theorem nextRem_le (hrem : 1 ≤ s.rem.toNat) : (s.nextRem m).toNat ≤ s.rem.toNat := by
  by_cases h : s.j.toNat + 1 = sweepLen m
  · rw [nextRem_of_sweepEnd h]
    bv_omega
  · rw [nextRem_inside h]

/-- `REM` reaches 0 at the end of a sweep only, where `J` returns to 0 (R92). -/
theorem nextJ_of_nextRem_zero (hrem : 1 ≤ s.rem.toNat) (h : s.nextRem m = 0#32) : s.nextJ m = 0#6 := by
  by_cases hend : s.j.toNat + 1 = sweepLen m
  · exact nextJ_of_sweepEnd hend
  · rw [nextRem_inside hend] at h
    simp [h] at hrem

/-- The master index `k` strides from a start (R87, R88). -/
def stridesFrom (m : StepMode) (d : Direction) (start : BitVec 6) (k : Nat) : BitVec 6 :=
  match d with
  | .forward => start + BitVec.ofNat 6 (stride m * k)
  | .backward => start - BitVec.ofNat 6 (stride m * k)

@[simp] theorem stridesFrom_zero (m : StepMode) (d : Direction) (start : BitVec 6) :
    stridesFrom m d start 0 = start := by
  cases d <;> simp [stridesFrom]

/-- An emission goes one stride on (R90). -/
theorem nextIndex_stridesFrom (m : StepMode) (d : Direction) (start : BitVec 6) (k : Nat) :
    nextIndex m d (stridesFrom m d start k) = stridesFrom m d start (k + 1) := by
  cases d <;> simp only [nextIndex, stridesFrom, Nat.mul_succ, BitVec.ofNat_add]
  · rw [BitVec.add_assoc]
  · rw [sub_sub]

/-- A whole sweep comes back to its start (R82, R99). -/
theorem stridesFrom_sweepLen (m : StepMode) (d : Direction) (start : BitVec 6) :
    stridesFrom m d start (sweepLen m) = start := by
  cases d <;> simp [stridesFrom, stride_times_sweepLen]

/-- The counter that follows an emission names the index that the emission reached (R92). -/
theorem stridesFrom_nextJ (hj : s.j.toNat < sweepLen m) (d : Direction) (start : BitVec 6) :
    stridesFrom m d start (s.nextJ m).toNat = stridesFrom m d start (s.j.toNat + 1) := by
  by_cases h : s.j.toNat + 1 = sweepLen m
  · rw [nextJ_of_sweepEnd h, h, stridesFrom_sweepLen]
    exact stridesFrom_zero m d start
  · rw [nextJ_toNat_inside hj h]

end Sys2Proof.Machine
end

section
/-! SUPPORT. Everything a step without a reset can do, as one relation, so that an invariant is proved by cases on it. -/

namespace Sys2Proof.Machine

variable {s t : State} {tick : Bool}

/-- What the block does to a state whose input has been taken, one constructor for each way, with its guards
(R52, R53, R84, R85, R90 to R94, R102 to R105). -/
inductive BlockStep (tick : Bool) (s : State) : State → Prop where
  | stay (h : (s.phase = .idle ∧ s.requests = []) ∨ (s.phase = .wait ∧ s.tmr ≠ 0#32 ∧ tick = false) ∨
      s.phase = .halt) : BlockStep tick s s
  | illegalOp {cw e} (rest) (hp : s.phase = .idle) (hr : s.requests = cw :: rest) (hd : decode cw = .error e) :
      BlockStep tick s (State.enterFault { s with requests := rest } (.illegalOp cw))
  | modeFault {cw arg} (rest) (hp : s.phase = .idle) (hr : s.requests = cw :: rest) (hd : decode cw = .ok (.step arg))
      (he : statusCfgErr s.status = true) :
      BlockStep tick s (State.enterFault { s with requests := rest } (.mode s.mode))
  | stepZero {cw arg} (rest) (hp : s.phase = .idle) (hr : s.requests = cw :: rest) (hd : decode cw = .ok (.step arg))
      (he : statusCfgErr s.status = false) (hc : stepCount arg = 0) :
      BlockStep tick s (State.complete { s with requests := rest } .step 0#32)
  | speedFault {cw arg} (rest) (hp : s.phase = .idle) (hr : s.requests = cw :: rest) (hd : decode cw = .ok (.step arg))
      (he : statusCfgErr s.status = false) (hc : stepCount arg ≠ 0) (hs : s.speed.toInt ≤ 0) :
      BlockStep tick s (State.enterFault { s with requests := rest } (.speed s.speed))
  | begin {cw arg m} (rest) (hp : s.phase = .idle) (hr : s.requests = cw :: rest) (hd : decode cw = .ok (.step arg))
      (he : statusCfgErr s.status = false) (hc : stepCount arg ≠ 0) (hs : 0 < s.speed.toInt)
      (hm : s.stepMode = some m) :
      BlockStep tick s (State.beginSweeps { s with requests := rest } m (stepCount arg))
  | setSpeed {cw arg} (rest) (hp : s.phase = .idle) (hr : s.requests = cw :: rest) (hd : decode cw = .ok (.setSpeed arg)) :
      BlockStep tick s (State.complete { s with requests := rest, speed := speedValue arg } .setSpeed 0#32)
  | getSpeed {cw arg} (rest) (hp : s.phase = .idle) (hr : s.requests = cw :: rest) (hd : decode cw = .ok (.getSpeed arg)) :
      BlockStep tick s (State.complete { s with requests := rest } .getSpeed s.speed)
  | emit {m} (hp : s.phase = .emit) (hm : s.stepMode = some m) : BlockStep tick s (s.emission m)
  | countTick (hp : s.phase = .wait) (ht : s.tmr ≠ 0#32) (htick : tick = true) :
      BlockStep tick s { s with tmr := s.tmr - 1#32 }
  | waitOver {m} (hp : s.phase = .wait) (ht : s.tmr = 0#32) (hm : s.stepMode = some m) :
      BlockStep tick s (s.endWait m)

/-- A decoded command in IDLE (R84, R93, R94). -/
theorem BlockStep.of_exec {cw : BitVec 36} {rest : List (BitVec 36)} {i : Instr} (hp : s.phase = .idle)
    (hr : s.requests = cw :: rest) (hd : decode cw = .ok i) (h : exec i { s with requests := rest } = .next t) :
    BlockStep tick s t := by
  cases i with
  | step arg =>
    obtain ⟨hn, -⟩ | ⟨-, he, rfl⟩ | ⟨-, he, hc, rfl⟩ | ⟨-, he, hc, hs, rfl⟩ | ⟨-, he, hc, hs, m, hm, rfl⟩ :=
      execStep_cases h
    · exact absurd hp hn
    · exact .modeFault rest hp hr hd he
    · exact .stepZero rest hp hr hd he hc
    · exact .speedFault rest hp hr hd he hc hs
    · exact .begin rest hp hr hd he hc hs hm
  | setSpeed arg =>
    obtain ⟨hn, -⟩ | ⟨-, rfl⟩ := execSetSpeed_cases h
    · exact absurd hp hn
    · exact .setSpeed rest hp hr hd
  | getSpeed arg =>
    obtain ⟨hn, -⟩ | ⟨-, rfl⟩ := execGetSpeed_cases (arg := arg) h
    · exact absurd hp hn
    · exact .getSpeed rest hp hr hd

/-- What IDLE does (R52, R53). -/
theorem BlockStep.of_idleStep (hp : s.phase = .idle) (h : idleStep s = .next t) : BlockStep tick s t := by
  obtain ⟨hr, rfl⟩ | ⟨cw, rest, hr, h⟩ := idleStep_cases h
  · exact .stay (.inl ⟨hp, hr⟩)
  · obtain ⟨i, hd, h⟩ | ⟨e, hd, rfl⟩ := acceptCommand_cases h
    · exact .of_exec hp hr hd h
    · exact .illegalOp rest hp hr hd

/-- What WAIT does (R91, R92). -/
theorem BlockStep.of_waitStep (hp : s.phase = .wait) (h : waitStep tick s = .next t) : BlockStep tick s t := by
  obtain ⟨ht, m, hm, rfl⟩ | ⟨ht, htick, rfl⟩ | ⟨ht, htick, rfl⟩ := waitStep_cases h
  · exact .waitOver hp ht hm
  · exact .countTick hp ht htick
  · exact .stay (.inr (.inl ⟨hp, ht, htick⟩))

/-- The block's own step is one of these ways (R22). -/
theorem BlockStep.of_advance (h : advance tick s = .next t) : BlockStep tick s t := by
  obtain ⟨hp, h⟩ | ⟨hp, h⟩ | ⟨hp, h⟩ | ⟨hp, rfl⟩ := advance_cases h
  · exact .of_idleStep hp h
  · obtain ⟨m, hm, rfl⟩ := emitStep_cases h
    exact .emit hp hm
  · exact .of_waitStep hp h
  · exact .stay (.inr (.inr hp))

/-- Outside EMIT no way of the block's step touches `DUTY_OUT`, and the events of each are named (R43, R125). -/
theorem BlockStep.no_write4 (hb : BlockStep tick s t) (hp : s.phase ≠ .emit) :
    t.dutyOut = s.dutyOut ∧ ∃ es : List Event, t.trace = s.trace ++ es ∧ ∀ w, Event.write4 w ∉ es := by
  cases hb with
  | stay | countTick => exact ⟨rfl, [], by simp, by simp⟩
  | illegalOp | modeFault | speedFault => exact ⟨rfl, [.fault _], rfl, by simp⟩
  | stepZero | setSpeed | getSpeed => exact ⟨rfl, [.done _ _], rfl, by simp⟩
  | begin => exact ⟨rfl, [], by simp, by simp⟩
  | emit he => exact absurd he hp
  | @waitOver m =>
    by_cases hlast : s.nextRem m = 0#32
    · rw [endWait_last hlast]
      exact ⟨rfl, [.delay _, .done _ _], rfl, by simp⟩
    · rw [endWait_more hlast]
      exact ⟨rfl, [.delay _], rfl, by simp⟩

/-- In EMIT the block has one way to step, the emission. -/
theorem BlockStep.eq_emission (hb : BlockStep tick s t) (hp : s.phase = .emit) :
    ∃ m, t = s.emission m := by
  cases hb with
  | emit => exact ⟨_, rfl⟩
  | illegalOp _ hi | modeFault _ hi | stepZero _ hi | speedFault _ hi | begin _ hi | setSpeed _ hi | getSpeed _ hi =>
    simp [hp] at hi
  | stay hw | countTick hw | waitOver hw => simp [hp] at hw

/-- A step is a construction from the configuration word (R116) or one of the block's own steps. -/
theorem step_construct_or_blockStep (h : step s = .next t) :
    (∃ cfg, s.nextInput = .reset cfg ∧ t = s.takeInput.construct (cfgPins cfg) (cfgMode cfg)) ∨
    (∃ tick, BlockStep tick s.takeInput t) := by
  obtain ⟨cfg, hi, rfl⟩ | ⟨tick, -, h⟩ := step_cases h
  · exact .inl ⟨cfg, hi, State.resetBlock_eq _ _⟩
  · exact .inr ⟨tick, .of_advance h⟩

/-- Without a reset it is one of the block's own steps. -/
theorem blockStep_of_no_reset (hi : ∀ cfg, s.nextInput ≠ .reset cfg) (h : step s = .next t) :
    ∃ tick, BlockStep tick s.takeInput t := by
  obtain ⟨cfg, hcfg, -⟩ | hb := step_construct_or_blockStep h
  · exact absurd hcfg (hi cfg)
  · exact hb

end Sys2Proof.Machine
end

section
/-! SUPPORT. The registers stay in agreement (R20, R22 to R24, R97): each operation of a step keeps `StateOk`. -/

namespace Sys2Proof.Machine

variable {s t : State} {m : StepMode} {tick : Bool}

theorem not_running_of_idle (h : s.phase = .idle) : ¬ s.Running := by simp [State.Running, h]

theorem not_running_of_halt (h : s.phase = .halt) : ¬ s.Running := by simp [State.Running, h]

theorem running_of_emit (h : s.phase = .emit) : s.Running := .inl h

theorem running_of_wait (h : s.phase = .wait) : s.Running := .inr h

/-- Every fault has one of the three codes of R101. -/
theorem FaultCause.code_cases (c : FaultCause) : c.code = 1#4 ∨ c.code = 2#4 ∨ c.code = 3#4 := by
  cases c <;> simp [FaultCause.code]

/-- What agreement says of a running `STEP` whose mode is known. -/
theorem StateOk.running_of_mode (h : StateOk s) (hrun : s.Running) (hm : s.stepMode = some m) :
    0 < s.speed.toInt ∧ s.dly = delay s.speed m ∧ 1 ≤ s.rem.toNat ∧ s.rem.toNat ≤ 2 ^ 31 ∧
    s.j.toNat < sweepLen m := by
  obtain ⟨m', hm', hfields⟩ := h.running hrun
  obtain rfl : m = m' := Option.some.inj (hm.symm.trans hm')
  exact hfields

/-- Agreement does not speak of what the outside presents. -/
theorem StateOk.withOutside (h : StateOk s) (requests : List (BitVec 36)) (inputs : List Input) :
    StateOk { s with requests := requests, inputs := inputs } := { h with }

/-- Construction puts every register at its value of R27, for a legal mode and for another. -/
theorem StateOk.construct (s : State) (pins : Lanes (BitVec 8)) (mode : BitVec 3) :
    StateOk (s.construct pins mode) := by
  obtain ⟨hbusy, hfault, hcause, hcfg, hres⟩ := resetStatus_fields mode
  exact {
    cfgErr := by simp [hcfg]
    busy := by simp [hbusy, State.Running]
    fault := by simp [hfault]
    reserved := by simp [hres]
    noCause := by simp [hcause]
    cause := by simp
    running := by simp [State.Running]
    notRunning := by simp
    dly := by simp
    tmr := by simp
    duty := fun k => by
      match k with
      | 0 | 1 | 2 | 3 => exact Nat.zero_le _ }

/-- A command that completes in IDLE changes `SPEED` at most, which agreement binds only while a `STEP` runs. -/
theorem StateOk.complete (h : StateOk s) (hp : s.phase = .idle) (speed : BitVec 32) (op : CommandName)
    (result : BitVec 32) : StateOk (State.complete { s with speed := speed } op result) :=
  { h with running := fun hrun => absurd hrun (not_running_of_idle hp) }

/-- Fault entry from IDLE (R104): `STATUS` and `PHASE` move together, and the counters are 0 already. -/
theorem StateOk.enterFault (h : StateOk s) (hp : s.phase = .idle) (c : FaultCause) : StateOk (s.enterFault c) := by
  obtain ⟨hbusy, hfault, hcause, hcfg, hres⟩ := faultStatus_fields s.status c
  obtain ⟨htmr, hzero⟩ := h.tmr
  exact {
    cfgErr := by simpa [hcfg] using h.cfgErr
    busy := by simp [hbusy, State.Running]
    fault := by simp [hfault]
    reserved := by simpa [hres] using h.reserved
    noCause := by simp
    cause := fun _ => by simpa [hcause] using c.code_cases
    running := by simp [State.Running]
    notRunning := fun _ => h.notRunning (not_running_of_idle hp)
    dly := h.dly
    tmr := ⟨htmr, fun _ => hzero (by simp [hp])⟩
    duty := h.duty }

/-- Acceptance of a `STEP` that passes its checks (R84): |count| is 1 to 2^31 sweeps and `DLY` is loaded. -/
theorem StateOk.beginSweeps (h : StateOk s) (hp : s.phase = .idle) {arg : BitVec 32} (hc : stepCount arg ≠ 0)
    (hs : 0 < s.speed.toInt) (hm : s.stepMode = some m) : StateOk (s.beginSweeps m (stepCount arg)) := by
  obtain ⟨-, hzero⟩ := h.tmr
  have htmr : s.tmr = 0#32 := hzero (by simp [hp])
  have hrem : 1 ≤ (stepCount arg).natAbs := Int.natAbs_pos.mpr hc
  exact {
    cfgErr := by simpa using h.cfgErr
    busy := by simp [State.Running]
    fault := by simpa [hp] using h.fault
    reserved := by simpa using h.reserved
    noCause := by simpa using h.noCause (by simp [hp])
    cause := by simp
    running := fun _ => ⟨m, hm, hs, rfl, by simpa [sweepCount_toNat] using hrem,
      by simpa [sweepCount_toNat] using natAbs_stepCount_le arg, by simpa using sweepLen_pos m⟩
    notRunning := fun hn => absurd (running_of_emit rfl) hn
    dly := delay_lt hs m
    tmr := by simp [htmr]
    duty := h.duty }

/-- The EMIT step (R90): BUSY stays, `TMR` starts at `DLY` and the new duties are in their range. -/
theorem StateOk.emission (h : StateOk s) (hp : s.phase = .emit) : StateOk (s.emission m) := by
  have hrun : s.Running := running_of_emit hp
  exact {
    cfgErr := h.cfgErr
    busy := iff_of_true (h.busy.mpr hrun) (running_of_wait rfl)
    fault := by simpa [hp] using h.fault
    reserved := h.reserved
    noCause := fun _ => h.noCause (by simp [hp])
    cause := by simp
    running := fun _ => h.running hrun
    notRunning := fun hn => absurd (running_of_wait rfl) hn
    dly := h.dly
    tmr := by simp
    duty := quad_get_le s.params _ }

/-- A counted tick takes `TMR` down (R91). -/
theorem StateOk.countTick (h : StateOk s) (hp : s.phase = .wait) (ht : s.tmr ≠ 0#32) :
    StateOk { s with tmr := s.tmr - 1#32 } := by
  obtain ⟨htmr, -⟩ := h.tmr
  have hdown : (s.tmr - 1#32).toNat ≤ s.dly.toNat := by bv_omega
  exact { h with tmr := ⟨hdown, fun hn => absurd hp hn⟩ }

/-- The end of a wait (R92): the last one leaves both counters 0 and clears BUSY, any other leaves them in range. -/
theorem StateOk.endWait (h : StateOk s) (hp : s.phase = .wait) (ht : s.tmr = 0#32) (hm : s.stepMode = some m) :
    StateOk (s.endWait m) := by
  have hrun : s.Running := running_of_wait hp
  obtain ⟨hspeed, hdly, hrem, hrem', hj⟩ := h.running_of_mode hrun hm
  by_cases hlast : s.nextRem m = 0#32
  · rw [endWait_last hlast]
    exact {
      cfgErr := by simpa using h.cfgErr
      busy := by simp [State.Running]
      fault := by simpa [hp] using h.fault
      reserved := by simpa using h.reserved
      noCause := by simpa using h.noCause (by simp [hp])
      cause := by simp
      running := by simp [State.Running]
      notRunning := fun _ => ⟨rfl, nextJ_of_nextRem_zero hrem hlast⟩
      dly := h.dly
      tmr := by simp [ht]
      duty := h.duty }
  · rw [endWait_more hlast]
    have hpos : 1 ≤ (s.nextRem m).toNat := by bv_omega
    exact {
      cfgErr := h.cfgErr
      busy := iff_of_true (h.busy.mpr hrun) (running_of_emit rfl)
      fault := by simpa [hp] using h.fault
      reserved := h.reserved
      noCause := fun _ => h.noCause (by simp [hp])
      cause := by simp
      running := fun _ => ⟨m, hm, hspeed, hdly, hpos, (nextRem_le hrem).trans hrem', nextJ_lt hj⟩
      notRunning := fun hn => absurd (running_of_emit rfl) hn
      dly := h.dly
      tmr := by simp [ht]
      duty := h.duty }

/-- The block's own steps keep the registers in agreement. -/
theorem StateOk.blockStep (h : StateOk s) (hb : BlockStep tick s t) : StateOk t := by
  have htaken (rest : List (BitVec 36)) : StateOk { s with requests := rest } := h.withOutside rest s.inputs
  cases hb with
  | stay => exact h
  | illegalOp rest hp | modeFault rest hp | speedFault rest hp => exact (htaken rest).enterFault hp _
  | stepZero rest hp | setSpeed rest hp | getSpeed rest hp => exact (htaken rest).complete hp _ _ _
  | begin rest hp _ _ _ hc hs hm => exact (htaken rest).beginSweeps hp hc hs hm
  | emit hp => exact h.emission hp
  | countTick hp ht => exact h.countTick hp ht
  | waitOver hp ht hm => exact h.endWait hp ht hm

end Sys2Proof.Machine
end

section
/-! SUPPORT. The master index stays on its sweep (R87 to R89, R99): each operation of a step keeps `PosOk`. -/

namespace Sys2Proof.Machine

variable {s t : State} {m : StepMode} {tick : Bool}

/-- Where the master index may stand between commands: at the end of a sweep, which a backward one under `RESTART`
reaches at 0 (R99). -/
def AtSweepEnd (policy : IndexPolicy) (m : StepMode) (pos : BitVec 6) : Prop :=
  match policy with
  | .restart => pos = lastOfSweep m ∨ pos = 0#6
  | .persist => pos = lastOfSweep m

/-- `PosOk` in terms of strides and sweep ends. -/
theorem posOk_iff : PosOk s ↔ ∀ m, s.stepMode = some m →
    (s.Running → s.pos = stridesFrom m s.dir (s.sweepStart m) s.emissionsOut) ∧
    (¬ s.Running → AtSweepEnd s.params.indexPolicy m s.pos) := Iff.rfl

/-- While a `STEP` of mode `m` runs, only the first half of `PosOk` speaks, and of `m` alone. -/
theorem posOk_running_iff (hrun : s.Running) (hm : s.stepMode = some m) :
    PosOk s ↔ s.pos = stridesFrom m s.dir (s.sweepStart m) s.emissionsOut := by
  simp [posOk_iff, hrun, hm]

/-- Between commands only the second half speaks. -/
theorem posOk_not_running_iff (hrun : ¬ s.Running) :
    PosOk s ↔ ∀ m, s.stepMode = some m → AtSweepEnd s.params.indexPolicy m s.pos := by
  simp [posOk_iff, hrun]

theorem atSweepEnd_lastOfSweep (policy : IndexPolicy) (m : StepMode) : AtSweepEnd policy m (lastOfSweep m) := by
  cases policy
  · exact .inl rfl
  · rfl

/-- Every sweep begins where one may end (R99). -/
theorem atSweepEnd_sweepStart (s : State) (m : StepMode) :
    AtSweepEnd s.params.indexPolicy m (s.sweepStart m) := by
  unfold State.sweepStart
  cases s.params.indexPolicy with
  | restart =>
    cases s.dir
    · exact .inl rfl
    · exact .inr rfl
  | persist => rfl

/-- A step from IDLE that starts no sweep leaves the index where it was. -/
theorem PosOk.of_not_running (h : PosOk s) (hs : ¬ s.Running) (ht : ¬ t.Running) (hmode : t.mode = s.mode)
    (hparams : t.params = s.params) (hpos : t.pos = s.pos) : PosOk t := by
  rw [posOk_not_running_iff hs] at h
  rw [posOk_not_running_iff ht, stepMode_congr hmode, hparams, hpos]
  exact h

/-- After reset a legal mode's index is the last one of a sweep (R18, R27). -/
theorem PosOk.construct (s : State) (pins : Lanes (BitVec 8)) (mode : BitVec 3) : PosOk (s.construct pins mode) := by
  rw [posOk_not_running_iff (not_running_of_idle rfl)]
  intro m hm
  have hpos : resetPos mode = lastOfSweep m := by
    have hbits : StepMode.ofBits mode = some m := hm
    simp [resetPos, hbits]
  rw [State.construct_pos, hpos]
  exact atSweepEnd_lastOfSweep _ m

/-- Acceptance puts the index at the start of its sweeps, where `PERSIST` finds it already (R84, R89). -/
theorem PosOk.beginSweeps (h : PosOk s) (hp : s.phase = .idle) (hm : s.stepMode = some m) (count : Int) :
    PosOk (s.beginSweeps m count) := by
  have hend := (posOk_not_running_iff (not_running_of_idle hp)).mp h m hm
  rw [posOk_running_iff (s := s.beginSweeps m count) (running_of_emit rfl) hm]
  have hout : (s.beginSweeps m count).emissionsOut = 0 := by simp [State.emissionsOut]
  rw [hout, stridesFrom_zero, State.sweepStart, State.beginSweeps_pos]
  cases hpol : s.params.indexPolicy with
  | restart => simp [hpol]
  | persist => simpa [hpol, AtSweepEnd] using hend

/-- The EMIT step puts one more emission out and goes one stride on (R90). -/
theorem PosOk.emission (h : PosOk s) (hp : s.phase = .emit) (hm : s.stepMode = some m) : PosOk (s.emission m) := by
  rw [posOk_running_iff (running_of_emit hp) hm] at h
  rw [posOk_running_iff (s := s.emission m) (running_of_wait rfl) hm]
  have hout : (s.emission m).emissionsOut = s.emissionsOut + 1 := by simp [State.emissionsOut, hp]
  rw [hout, State.emission_pos, h, nextIndex_stridesFrom]
  rfl

/-- The end of a wait (R92): the counters move on, the index stays, and a completed sweep is back at its start. -/
theorem PosOk.endWait (h : PosOk s) (hok : StateOk s) (hp : s.phase = .wait) (hm : s.stepMode = some m) :
    PosOk (s.endWait m) := by
  have hrun : s.Running := running_of_wait hp
  obtain ⟨-, -, hrem, -, hj⟩ := hok.running_of_mode hrun hm
  have hpos : s.pos = stridesFrom m s.dir (s.sweepStart m) (s.nextJ m).toNat := by
    rw [stridesFrom_nextJ hj, (posOk_running_iff hrun hm).mp h]
    simp [State.emissionsOut, hp]
  by_cases hlast : s.nextRem m = 0#32
  · rw [endWait_last hlast, posOk_not_running_iff (not_running_of_idle rfl)]
    intro m' hm'
    obtain rfl : m = m' := Option.some.inj (hm.symm.trans hm')
    have hstart : s.pos = s.sweepStart m := by simpa [nextJ_of_nextRem_zero hrem hlast] using hpos
    simpa [hstart] using atSweepEnd_sweepStart s m
  · rw [endWait_more hlast]
    exact Iff.mpr (posOk_running_iff (running_of_emit rfl) hm) hpos

/-- The block's own steps keep the index on its sweep. -/
theorem PosOk.blockStep (h : PosOk s) (hok : StateOk s) (hb : BlockStep tick s t) : PosOk t := by
  cases hb with
  | stay | countTick => exact h
  | illegalOp _ hp | modeFault _ hp | speedFault _ hp =>
    exact h.of_not_running (not_running_of_idle hp) (not_running_of_halt rfl) rfl rfl rfl
  | stepZero _ hp | setSpeed _ hp | getSpeed _ hp =>
    exact h.of_not_running (not_running_of_idle hp) (not_running_of_idle hp) rfl rfl rfl
  | begin rest hp _ _ _ _ _ hm => exact PosOk.beginSweeps (s := { s with requests := rest }) h hp hm _
  | emit hp hm => exact h.emission hp hm
  | waitOver hp _ hm => exact h.endWait hok hp hm

end Sys2Proof.Machine
end

section
/-! SUPPORT. The statements of `10_state.md`: the two invariants, the pins, the state after reset and the stride. -/

namespace Sys2Proof.Proofs

open Sys2Proof.Machine

/-- Settles O42: a reset builds a state that agrees, and each of the block's own steps keeps agreement. -/
theorem stepKeepsRegistersInAgreement : Obligations.StepKeepsRegistersInAgreement := by
  intro s t hok h
  obtain ⟨cfg, -, rfl⟩ | ⟨tick, hb⟩ := step_construct_or_blockStep h
  · exact .construct _ _ _
  · exact (hok.withOutside _ _).blockStep hb

/-- Settles O43: a reset puts the index at the end of a sweep, and each of the block's own steps keeps it on its sweep. -/
theorem stepKeepsIndexOnItsSweep : Obligations.StepKeepsIndexOnItsSweep := by
  intro s t hok hpos h
  obtain ⟨cfg, -, rfl⟩ | ⟨tick, hb⟩ := step_construct_or_blockStep h
  · exact .construct _ _ _
  · exact PosOk.blockStep (s := s.takeInput) hpos (hok.withOutside _ _) hb

/-- Settles O41: outside EMIT no event is a `WRITE4`; the emission's one `WRITE4` is the mux of the duties it holds. -/
theorem onlyEmissionsWritePins : Obligations.OnlyEmissionsWritePins := by
  intro s t hi h
  obtain ⟨tick, hb⟩ := blockStep_of_no_reset hi h
  refine ⟨fun hp => hb.no_write4 hp, fun hp => ?_⟩
  obtain ⟨m, rfl⟩ := hb.eq_emission hp
  exact ⟨_, rfl, fun k => mux_get _ _ k⟩

/-- Settles O3: mode 4 has stride 1, so its reset index is 63, and `DUTY_MAX` is one more than a natural number. -/
theorem resetStateValues : Obligations.ResetStateValues := by
  have hpos : State.reset.pos = 63#6 := by decide
  have hduty : 1 ≤ State.reset.params.dutyMax := Nat.succ_pos Config.dutyMaxLessOne
  exact ⟨rfl, hpos, rfl, rfl, rfl, rfl, rfl, rfl, rfl, rfl, rfl, rfl, rfl, rfl, hduty⟩

/-- Settles O4: `State.reset` is a construction, and every construction meets both invariants. -/
theorem resetStateMeetsInvariants : Obligations.ResetStateMeetsInvariants := by
  unfold Obligations.ResetStateMeetsInvariants
  rw [State.reset_eq_construct { State.reset with trace := [] } rfl rfl rfl rfl]
  exact ⟨.construct _ _ _, .construct _ _ _⟩

/-- Settles O19: a shift right is a quotient by a power of two, and the ordinals 0 to 4 are the modes. -/
theorem strideOfMode : Obligations.StrideOfMode := by
  refine ⟨fun m => Nat.shiftRight_eq_div_pow _ _, fun b => ?_, fun b m => ?_, rfl⟩
  · rw [Option.isSome_iff_exists, ofBits_isSome]
  · rw [ofBits_eq_some, eq_comm]

end Sys2Proof.Proofs
end

section
/-! SUPPORT. The relation of a step's ways is exact: each way, under its guards, is what the machine answers. -/

namespace Sys2Proof.Machine

variable {s t : State} {m : StepMode} {tick : Bool} {arg : BitVec 32}

/-- The first check of a `STEP`: an illegal mode (R103, R106). -/
theorem execStep_modeFault (hp : s.phase = .idle) (he : statusCfgErr s.status = true) :
    execStep arg s = .next (s.enterFault (.mode s.mode)) := by
  simp [execStep, hp, he]

/-- The second: a count of 0 completes at once (R85). -/
theorem execStep_zero (hp : s.phase = .idle) (he : statusCfgErr s.status = false) (hc : stepCount arg = 0) :
    execStep arg s = .next (s.complete .step 0#32) := by
  simp [execStep, hp, he, hc]

/-- The third: no positive speed, whether `MODE` holds a mode or not (R105). -/
theorem execStep_speedFault (hp : s.phase = .idle) (he : statusCfgErr s.status = false) (hc : stepCount arg ≠ 0)
    (hs : s.speed.toInt ≤ 0) : execStep arg s = .next (s.enterFault (.speed s.speed)) := by
  cases hm : s.stepMode <;> simp [execStep, hp, he, hc, hs, hm]

/-- A `STEP` that passes its checks begins (R84). -/
theorem execStep_begin (hp : s.phase = .idle) (he : statusCfgErr s.status = false) (hc : stepCount arg ≠ 0)
    (hs : 0 < s.speed.toInt) (hm : s.stepMode = some m) :
    execStep arg s = .next (s.beginSweeps m (stepCount arg)) := by
  simp [execStep, hp, he, hc, hm, hs.not_ge]

/-- The phase chooses the step (R22). -/
theorem advance_idle (hp : s.phase = .idle) : advance tick s = idleStep s := by simp [advance, hp]

theorem advance_emit (hp : s.phase = .emit) : advance tick s = emitStep s := by simp [advance, hp]

theorem advance_wait (hp : s.phase = .wait) : advance tick s = waitStep tick s := by simp [advance, hp]

theorem advance_halt (hp : s.phase = .halt) : advance tick s = .next s := by simp [advance, hp]

/-- A presented word that decodes is executed (R52). -/
theorem advance_command {cw : BitVec 36} {rest : List (BitVec 36)} {i : Instr} (hp : s.phase = .idle)
    (hr : s.requests = cw :: rest) (hd : decode cw = .ok i) :
    advance tick s = exec i { s with requests := rest } := by
  simp [advance_idle hp, idleStep, hr, acceptCommand, hd]

/-- A presented word that does not is a fault (R53). -/
theorem advance_illegalOp {cw : BitVec 36} {rest : List (BitVec 36)} {e : DecodeError} (hp : s.phase = .idle)
    (hr : s.requests = cw :: rest) (hd : decode cw = .error e) :
    advance tick s = .next (State.enterFault { s with requests := rest } (.illegalOp cw)) := by
  simp [advance_idle hp, idleStep, hr, acceptCommand, hd]

/-- Where nothing is to be done the block answers the same state (R43, R91, R104). -/
theorem advance_stay (h : (s.phase = .idle ∧ s.requests = []) ∨ (s.phase = .wait ∧ s.tmr ≠ 0#32 ∧ tick = false) ∨
    s.phase = .halt) : advance tick s = .next s := by
  obtain ⟨hp, hr⟩ | ⟨hp, ht, rfl⟩ | hp := h
  · simp [advance_idle hp, idleStep, hr]
  · simp [advance_wait hp, waitStep, ht]
  · exact advance_halt hp

/-- The converse of `BlockStep.of_advance`: the guards of a way are enough for the block to take it. -/
theorem BlockStep.advance_eq (hb : BlockStep tick s t) : advance tick s = .next t := by
  cases hb with
  | stay h => exact advance_stay h
  | illegalOp _ hp hr hd => exact advance_illegalOp hp hr hd
  | modeFault _ hp hr hd he => exact (advance_command hp hr hd).trans (execStep_modeFault hp he)
  | stepZero _ hp hr hd he hc => exact (advance_command hp hr hd).trans (execStep_zero hp he hc)
  | speedFault _ hp hr hd he hc hs => exact (advance_command hp hr hd).trans (execStep_speedFault hp he hc hs)
  | begin _ hp hr hd he hc hs hm => exact (advance_command hp hr hd).trans (execStep_begin hp he hc hs hm)
  | setSpeed _ hp hr hd | getSpeed _ hp hr hd => exact (advance_command hp hr hd).trans (whenIdle_idle hp)
  | emit hp hm => simp [advance_emit hp, emitStep, hm]
  | countTick hp ht htick => simp [advance_wait hp, waitStep, ht, htick]
  | waitOver hp ht hm => simp [advance_wait hp, waitStep, ht, hm]

/-- A reset that arrives is taken, whatever else is due (R106, R116). -/
theorem step_of_reset {cfg : BitVec 35} (hi : s.nextInput = .reset cfg) :
    step s = .next (s.takeInput.resetBlock cfg) := by
  simp [step, stepWith, hi]

/-- With any other input the machine takes the way of the block that is open to it. -/
theorem step_of_blockStep (hi : s.nextInput = if tick then .tick else .quiet) (hb : BlockStep tick s.takeInput t) :
    step s = .next t := by
  rw [← hb.advance_eq]
  cases tick <;> simp [step, stepWith, hi]

/-- What is not a reset is a tick or nothing (log 5). -/
theorem exists_tick_of_no_reset (hi : ∀ cfg, s.nextInput ≠ .reset cfg) :
    ∃ tick : Bool, s.nextInput = if tick then .tick else .quiet := by
  cases h : s.nextInput with
  | quiet => exact ⟨false, rfl⟩
  | tick => exact ⟨true, rfl⟩
  | reset cfg => exact absurd h (hi cfg)

end Sys2Proof.Machine
end

section
/-! SUPPORT. The trace is written and never read (R41): each way of a step is open with any other trace, and adds the
same events to it. -/

namespace Sys2Proof.Machine

variable {s t : State} {tick : Bool}

/-- The same block with another trace. -/
def State.withTrace (s : State) (tr : List Event) : State := { s with trace := tr }

/-- The end of a wait adds its `DELAY`, and at the last one a `DONE`, to whatever the trace holds (R91, R92). -/
theorem endWait_withTrace (s : State) (m : StepMode) :
    ∃ es : List Event, es.length ≤ 2 ∧
      ∀ tr, (s.withTrace tr).endWait m = (s.endWait m).withTrace (tr ++ es) := by
  by_cases hlast : s.nextRem m = 0#32
  · refine ⟨[.delay s.dly.toNat, .done .step 0#32], le_rfl, fun tr => ?_⟩
    rw [endWait_last hlast]
    exact endWait_last (s := s.withTrace tr) hlast
  · refine ⟨[.delay s.dly.toNat], Nat.le_succ 1, fun tr => ?_⟩
    rw [endWait_more hlast]
    exact endWait_more (s := s.withTrace tr) hlast

/-- A way that makes no event adds the empty list. -/
theorem exists_events_of_none (h : ∀ tr, BlockStep tick (s.withTrace tr) (t.withTrace tr)) :
    ∃ es : List Event, es.length ≤ 2 ∧ ∀ tr, BlockStep tick (s.withTrace tr) (t.withTrace (tr ++ es)) :=
  ⟨[], Nat.zero_le 2, fun tr => by simpa using h tr⟩

/-- No guard of `BlockStep` speaks of the trace, so the same way is open with any other, and it adds the same events. -/
theorem BlockStep.exists_events (hb : BlockStep tick s t) :
    ∃ es : List Event, es.length ≤ 2 ∧ ∀ tr, BlockStep tick (s.withTrace tr) (t.withTrace (tr ++ es)) := by
  cases hb with
  | stay h => exact exists_events_of_none fun tr => .stay h
  | begin rest hp hr hd he hc hs hm =>
    exact exists_events_of_none fun tr => .begin (s := s.withTrace tr) rest hp hr hd he hc hs hm
  | countTick hp ht htick =>
    exact exists_events_of_none fun tr => .countTick (s := s.withTrace tr) hp ht htick
  | @illegalOp cw _ rest hp hr hd =>
    exact ⟨[.fault (.illegalOp cw)], Nat.le_succ 1, fun tr => .illegalOp (s := s.withTrace tr) rest hp hr hd⟩
  | modeFault rest hp hr hd he =>
    exact ⟨[.fault (.mode s.mode)], Nat.le_succ 1, fun tr => .modeFault (s := s.withTrace tr) rest hp hr hd he⟩
  | speedFault rest hp hr hd he hc hs =>
    exact ⟨[.fault (.speed s.speed)], Nat.le_succ 1, fun tr =>
      .speedFault (s := s.withTrace tr) rest hp hr hd he hc hs⟩
  | stepZero rest hp hr hd he hc =>
    exact ⟨[.done .step 0#32], Nat.le_succ 1, fun tr => .stepZero (s := s.withTrace tr) rest hp hr hd he hc⟩
  | setSpeed rest hp hr hd =>
    exact ⟨[.done .setSpeed 0#32], Nat.le_succ 1, fun tr => .setSpeed (s := s.withTrace tr) rest hp hr hd⟩
  | getSpeed rest hp hr hd =>
    exact ⟨[.done .getSpeed s.speed], Nat.le_succ 1, fun tr => .getSpeed (s := s.withTrace tr) rest hp hr hd⟩
  | @emit m hp hm =>
    exact ⟨[.write4 (mux s.pinId (quad s.params (nextIndex m s.dir s.pos)))], Nat.le_succ 1, fun tr =>
      .emit (s := s.withTrace tr) hp hm⟩
  | @waitOver m hp ht hm =>
    obtain ⟨es, hlen, htrace⟩ := endWait_withTrace s m
    exact ⟨es, hlen, fun tr => htrace tr ▸ .waitOver (s := s.withTrace tr) hp ht hm⟩

end Sys2Proof.Machine
end

section
/-! SUPPORT. The statements of `20_memory.md`: the trace, and the block between commands. -/

namespace Sys2Proof.Proofs

open Sys2Proof.Machine

/-- Settles O39: a reset adds its `CFG_OUT` to any trace, and each of the block's own ways is open with any trace. -/
theorem traceGrowsAndIsNeverRead : Obligations.TraceGrowsAndIsNeverRead := by
  intro s t h
  obtain ⟨cfg, hi, rfl⟩ | ⟨tick, hi, h⟩ := step_cases h
  · exact ⟨[.cfgOut _], Nat.le_succ 1, fun tr => step_of_reset (s := s.withTrace tr) hi⟩
  · obtain ⟨es, hlen, hb⟩ := (BlockStep.of_advance h).exists_events
    exact ⟨es, hlen, fun tr => step_of_blockStep (s := s.withTrace tr) hi (hb tr)⟩

/-- Settles O35: IDLE with nothing presented is one of the ways in which the block stays as it is. -/
theorem idleWithoutRequestKeepsAll : Obligations.IdleWithoutRequestKeepsAll := by
  intro s hp hr hi
  obtain ⟨tick, htick⟩ := exists_tick_of_no_reset hi
  exact step_of_blockStep htick (.stay (.inl ⟨hp, hr⟩))

end Sys2Proof.Proofs
end

section
/-! SUPPORT. The command word (R48, R49): its two fields, and the words that the decoder takes. -/

namespace Sys2Proof

@[simp] theorem opField_append (op : BitVec 4) (arg : BitVec 32) : opField (op ++ arg) = op :=
  BitVec.extractLsb'_append_eq_left

@[simp] theorem argField_append (op : BitVec 4) (arg : BitVec 32) : argField (op ++ arg) = arg :=
  BitVec.extractLsb'_append_eq_right

/-- `OP` and `ARG` are the whole word, so no bit is lost between them (R48). -/
theorem opField_append_argField (cw : BitVec 36) : opField cw ++ argField cw = cw :=
  (BitVec.extractLsb'_append_extractLsb'_eq_extractLsb' rfl).trans (BitVec.extractLsb'_eq_self)

/-- `OP` as the number that the upper four bits are (R48). -/
theorem opField_toNat (cw : BitVec 36) : (opField cw).toNat = cw.toNat / 2 ^ 32 := by
  have hlt : cw.toNat < 2 ^ 36 := cw.isLt
  have hop : (opField cw).toNat = cw.toNat / 2 ^ 32 % 2 ^ 4 := by
    rw [opField, BitVec.extractLsb'_toNat, Nat.shiftRight_eq_div_pow]
  omega

/-- The decoder takes a word for an instruction exactly when the two agree on both fields (R49). -/
theorem decode_eq_ok_iff (cw : BitVec 36) (i : Instr) :
    decode cw = .ok i ↔ opField cw = i.op ∧ argField cw = i.arg := by
  unfold decode
  split_ifs with h1 h2 h3
  · cases i <;> simp [Instr.op, Instr.arg, h1]
  · cases i <;> simp [Instr.op, Instr.arg, h2]
  · cases i <;> simp [Instr.op, Instr.arg, h3]
  · cases i <;> simp [Instr.op, h1, h2, h3]

/-- It refuses every other operation code (R53). -/
theorem decode_of_illegal_op {cw : BitVec 36} (h1 : opField cw ≠ 1#4) (h2 : opField cw ≠ 2#4)
    (h3 : opField cw ≠ 3#4) : decode cw = .error (.illegalOp (opField cw)) := by
  simp [decode, h1, h2, h3]

/-- Every operand comes back (R50, R51). -/
theorem decode_encode (i : Instr) : decode (encode i) = .ok i :=
  (decode_eq_ok_iff _ i).mpr ⟨opField_append i.op i.arg, argField_append i.op i.arg⟩

/-- A legal word is the encoding of what it decodes to (R48, R49). -/
theorem encode_of_decode {cw : BitVec 36} {i : Instr} (h : decode cw = .ok i) : encode i = cw := by
  obtain ⟨hop, harg⟩ := (decode_eq_ok_iff cw i).mp h
  calc encode i = i.op ++ i.arg := rfl
    _ = opField cw ++ argField cw := by rw [hop, harg]
    _ = cw := opField_append_argField cw

end Sys2Proof
end

section
/-! SUPPORT. Fault entry in closed form (R104), and the requests outside IDLE: no way of a step that is open there
speaks of them (R52). -/

namespace Sys2Proof.Machine

variable {s t : State} {tick : Bool}

/-- What fault entry makes of `STATUS`: `CFG_ERR` and bit 3 stay, FAULT and the cause are set (R104). -/
theorem faultStatus_eq (v : BitVec 8) (c : FaultCause) :
    faultStatus v c = (v &&& 0x0A#8) ||| 0x04#8 ||| (c.code.setWidth 8 <<< 4) := by
  unfold faultStatus
  cases c <;> (simp only [FaultCause.code]; revert v; decide)

/-- A step without a reset is the block's own, with a tick or without one (R106). -/
theorem step_of_advance (hi : s.nextInput = if tick then .tick else .quiet) : step s = advance tick s.takeInput := by
  cases tick <;> simp [step, stepWith, hi]

/-- The same block with other requests held on its port. -/
def State.withRequests (s : State) (other : List (BitVec 36)) : State := { s with requests := other }

/-- The end of a wait leaves the command port alone (R92). -/
theorem endWait_withRequests (s : State) (m : StepMode) (other : List (BitVec 36)) :
    (s.withRequests other).endWait m = (s.endWait m).withRequests other := by
  by_cases hlast : s.nextRem m = 0#32
  · rw [endWait_last hlast]
    exact endWait_last (s := s.withRequests other) hlast
  · rw [endWait_more hlast]
    exact endWait_more (s := s.withRequests other) hlast

/-- Only an acceptance takes a request away, and it needs IDLE. -/
theorem BlockStep.requests_held (hb : BlockStep tick s t) (hp : s.phase ≠ .idle) : t.requests = s.requests := by
  cases hb with
  | illegalOp _ hi | modeFault _ hi | stepZero _ hi | speedFault _ hi | begin _ hi | setSpeed _ hi | getSpeed _ hi =>
    exact absurd hi hp
  | stay | countTick | emit => rfl
  | @waitOver m =>
    obtain ⟨-, -, -, -, -, -, -, -, -, -, -, hrequests, -⟩ := endWait_fields s m
    exact hrequests

/-- Outside IDLE no guard speaks of the requests, so the same way is open with any others. -/
theorem BlockStep.withRequests (hb : BlockStep tick s t) (hp : s.phase ≠ .idle) (other : List (BitVec 36)) :
    BlockStep tick (s.withRequests other) (t.withRequests other) := by
  cases hb with
  | illegalOp _ hi | modeFault _ hi | stepZero _ hi | speedFault _ hi | begin _ hi | setSpeed _ hi | getSpeed _ hi =>
    exact absurd hi hp
  | stay h => exact .stay (.inr (h.resolve_left fun ⟨hidle, _⟩ => hp hidle))
  | emit he hm => exact .emit (s := s.withRequests other) he hm
  | countTick hw ht htick => exact .countTick (s := s.withRequests other) hw ht htick
  | waitOver hw ht hm =>
    rw [← endWait_withRequests]
    exact .waitOver (s := s.withRequests other) hw ht hm

end Sys2Proof.Machine
end

section
/-! SUPPORT. The statements of `30_encoding.md`: the command word, the handshake and the held requests. -/

namespace Sys2Proof.Proofs

open Sys2Proof.Machine

/-- Settles O5: the decoder and an instruction agree exactly on the two fields, and these are the whole word. -/
theorem decodeAndEncodeAgree : Obligations.DecodeAndEncodeAgree :=
  ⟨decode_encode, fun _ _ => encode_of_decode⟩

/-- Settles O7: the upper four bits are `OP`, so the word does not decode and the block takes `E_ILLEGAL_OP`. -/
theorem illegalOperationFaults : Obligations.IllegalOperationFaults := by
  intro s cw rest hp hi hr h1 h2 h3
  have hd : decode cw = .error (.illegalOp (opField cw)) := by
    rw [← opField_toNat] at h1 h2 h3
    exact decode_of_illegal_op (ne_of_apply_ne _ h1) (ne_of_apply_ne _ h2) (ne_of_apply_ne _ h3)
  have hstatus : faultStatus s.status (.illegalOp cw) = (s.status &&& 0x0A#8) ||| 0x14#8 := by
    simp [faultStatus_eq, FaultCause.code, BitVec.or_assoc]
  obtain ⟨tick, htick⟩ := exists_tick_of_no_reset hi
  rw [step_of_blockStep htick (.illegalOp (s := s.takeInput) rest hp hr hd), ← hstatus]
  rfl

/-- Settles O37: outside IDLE each way of the block's step keeps the requests and is open with any others. -/
theorem requestsAreHeldOutsideIdle : Obligations.RequestsAreHeldOutsideIdle := by
  intro s t other hp hi h
  obtain ⟨tick, htick⟩ := exists_tick_of_no_reset hi
  have hb : BlockStep tick s.takeInput t := .of_advance ((step_of_advance htick).symm.trans h)
  exact ⟨hb.requests_held hp, step_of_blockStep (s := s.withRequests other) htick (hb.withRequests hp other)⟩

/-- Settles O2: the step is the construction, which writes neither list. -/
theorem resetKeepsHeldRequests : Obligations.ResetKeepsHeldRequests := by
  intro s t cfg hi h
  obtain rfl := next_inj.mp ((step_of_reset hi).symm.trans h)
  exact ⟨rfl, rfl⟩

/-- Settles O6: the legal words are the encodings of what they are listed as, and the other two carry 0 and 15. -/
theorem listedWordsDecode : Obligations.ListedWordsDecode :=
  ⟨decode_encode (.step 1#32), decode_encode (.step 0xFFFFFFFF#32), decode_encode (.step 0x80000000#32),
    decode_encode (.setSpeed 1000#32), decode_encode (.getSpeed 0#32), decode_encode (.getSpeed 0x12345678#32),
    decode_of_illegal_op (cw := 0x000000000#36) (by decide) (by decide) (by decide),
    decode_of_illegal_op (cw := 0xF00000001#36) (by decide) (by decide) (by decide)⟩

/-- Settles O8: the step is the block's own in IDLE, which executes a presented word that decodes. -/
theorem stepRunsTheDecodedCommand : Obligations.StepRunsTheDecodedCommand := by
  intro s cw rest i hp hi hr hd
  obtain ⟨tick, htick⟩ := exists_tick_of_no_reset hi
  exact (step_of_advance htick).trans (advance_command (s := s.takeInput) hp hr hd)

/-- Settles O29: each instruction has its effect only through `whenIdle`, which keeps the state in any other phase. -/
theorem commandHasNoEffectUnlessAccepted : Obligations.CommandHasNoEffectUnlessAccepted := by
  intro s i hp
  cases i with
  | step | setSpeed | getSpeed => exact whenIdle_held hp

end Sys2Proof.Proofs
end

section
/-! SUPPORT. The index decoder and the ROM (R61 to R64): the two fields of an index, the reduction of a wider one, and
the two bytes of an entry. -/

namespace Sys2Proof.Machine

/-- The pattern index is the remainder by 16 (R62). -/
theorem decodeIndex_pattern_toNat (i : BitVec 6) : (decodeIndex i).pattern.toNat = i.toNat % 16 :=
  BitVec.extractLsb'_toNat 0 4 i

/-- The pin offset is the quotient by 16 (R62). -/
theorem decodeIndex_offset_toNat (i : BitVec 6) : (decodeIndex i).offset.toNat = i.toNat / 16 := by
  have hlt : i.toNat < 2 ^ 6 := i.isLt
  have ho : (decodeIndex i).offset.toNat = i.toNat / 2 ^ 4 % 2 ^ 2 := by
    rw [decodeIndex, BitVec.extractLsb'_toNat, Nat.shiftRight_eq_div_pow]
  omega

/-- Each pair of a pattern index and a pin offset is the decoding of an index (R57). -/
@[simp] theorem decodeIndex_append (o : BitVec 2) (p : BitVec 4) : decodeIndex (o ++ p) = ⟨p, o⟩ :=
  congrArg₂ DecodedIndex.mk BitVec.extractLsb'_append_eq_right BitVec.extractLsb'_append_eq_left

/-- The reduced index is the remainder mod 64 that is not negative (R63). -/
theorem reduceIndex_toNat (v : Int) : ((reduceIndex v).toNat : Int) = v % 64 := by
  rw [reduceIndex, BitVec.toNat_ofInt]
  exact Int.toNat_of_nonneg (Int.emod_nonneg v (by decide))

/-- An unsigned value is reduced to its bits 5:0 (R63). -/
theorem reduceIndex_unsigned {w : Nat} (v : BitVec w) : reduceIndex v.toNat = v.extractLsb' 0 6 := by
  have h := reduceIndex_toNat v.toNat
  apply BitVec.eq_of_toNat_eq
  rw [BitVec.extractLsb'_toNat, Nat.shiftRight_zero]
  omega

/-- The two bytes are the whole entry (R37). -/
theorem entryHigh_append_entryLow (e : BitVec 16) : entryHigh e ++ entryLow e = e :=
  (BitVec.extractLsb'_append_extractLsb'_eq_extractLsb' rfl).trans BitVec.extractLsb'_eq_self

theorem entry_toNat (e : BitVec 16) : e.toNat = 256 * (entryHigh e).toNat + (entryLow e).toNat := by
  calc e.toNat
    _ = (entryHigh e ++ entryLow e).toNat := congrArg _ (entryHigh_append_entryLow e).symm
    _ = 2 ^ 8 * (entryHigh e).toNat + (entryLow e).toNat := by
      rw [BitVec.toNat_append, Nat.shiftLeft_eq, Nat.mul_comm, Nat.two_pow_add_eq_or_of_lt (entryLow e).isLt]

theorem entry_eq_zero_iff (e : BitVec 16) : e = 0#16 ↔ entryHigh e = 0#8 ∧ entryLow e = 0#8 := by
  have h := entry_toNat e
  simp only [← BitVec.toNat_inj, BitVec.toNat_ofNat]
  omega

end Sys2Proof.Machine
end

section
/-! SUPPORT. The unpacker (R69 to R74): which lane carries which byte of the entry at each pin offset. -/

namespace Sys2Proof.Machine

/-- A word of four bytes is cut into them, the lowest first (R73). -/
theorem laneBytes_append (a b c d : BitVec 8) : laneBytes (a ++ b ++ c ++ d) = ⟨d, c, b, a⟩ := by
  simp only [laneBytes, Lanes.mk.injEq]
  refine ⟨?_, ?_, ?_, ?_⟩ <;> ext i hi <;> grind

theorem offset_cases (o : BitVec 2) : o = 0#2 ∨ o = 1#2 ∨ o = 2#2 ∨ o = 3#2 := by
  revert o; decide

/-- The entry's two bytes stand above two bytes of 0 (R69). -/
theorem place_eq_append (e : BitVec 16) : place e = entryHigh e ++ entryLow e ++ 0#8 ++ 0#8 := by
  rw [entryHigh_append_entryLow]
  ext i hi
  simp only [place, BitVec.getElem_shiftLeft, BitVec.getElem_setWidth]
  grind

theorem bytes_shiftRight (a b c d : BitVec 8) : (a ++ b ++ c ++ d) >>> 8 = 0#8 ++ a ++ b ++ c := by
  ext i hi
  simp only [BitVec.getElem_ushiftRight, BitVec.getLsbD_append, BitVec.getElem_append]
  grind

theorem bytes_shiftLeft (a b c d : BitVec 8) : (a ++ b ++ c ++ d) <<< 8 = b ++ c ++ d ++ 0#8 := by
  ext i hi
  simp only [BitVec.getElem_shiftLeft, BitVec.getElem_append, BitVec.getElem_zero]
  grind

theorem unpackWord_offset0 (e : BitVec 16) : unpackWord e 0#2 = entryHigh e ++ entryLow e ++ 0#8 ++ 0#8 := by
  simp [unpackWord, shiftDown, wrapBack, place_eq_append]

theorem unpackWord_offset1 (e : BitVec 16) : unpackWord e 1#2 = 0#8 ++ entryHigh e ++ entryLow e ++ 0#8 := by
  calc unpackWord e 1#2
    _ = place e >>> 8 := rfl
    _ = _ := by rw [place_eq_append, bytes_shiftRight]

theorem unpackWord_offset2 (e : BitVec 16) : unpackWord e 2#2 = 0#8 ++ 0#8 ++ entryHigh e ++ entryLow e := by
  calc unpackWord e 2#2
    _ = place e >>> (8 + 8) := rfl
    _ = _ := by rw [place_eq_append, BitVec.shiftRight_add, bytes_shiftRight, bytes_shiftRight]

/-- At offset 3 the low byte has left the word downward, and the wrap brings it back at the top (R71). -/
theorem unpackWord_offset3 (e : BitVec 16) : unpackWord e 3#2 = entryLow e ++ 0#8 ++ 0#8 ++ entryHigh e := by
  calc unpackWord e 3#2
    _ = place e >>> (8 + 8 + 8) ||| place e <<< 8 := rfl
    _ = (0#8 ++ 0#8 ++ 0#8 ++ entryHigh e) ||| (entryLow e ++ 0#8 ++ 0#8 ++ 0#8) := by
      rw [place_eq_append, BitVec.shiftRight_add, BitVec.shiftRight_add, bytes_shiftRight, bytes_shiftRight,
        bytes_shiftRight, bytes_shiftLeft]
    _ = _ := by simp only [BitVec.or_append, BitVec.zero_or, BitVec.or_zero]

/-- The word is the placed entry's four bytes, rotated down by one place for each unit of the offset, so its lanes
carry each byte of the entry once and 0 twice (R72). -/
theorem laneBytes_unpackWord (e : BitVec 16) :
    laneBytes (unpackWord e 0#2) = ⟨0#8, 0#8, entryLow e, entryHigh e⟩ ∧
    laneBytes (unpackWord e 1#2) = ⟨0#8, entryLow e, entryHigh e, 0#8⟩ ∧
    laneBytes (unpackWord e 2#2) = ⟨entryLow e, entryHigh e, 0#8, 0#8⟩ ∧
    laneBytes (unpackWord e 3#2) = ⟨entryHigh e, 0#8, 0#8, entryLow e⟩ := by
  simp only [unpackWord_offset0, unpackWord_offset1, unpackWord_offset2, unpackWord_offset3, laneBytes_append,
    and_self]

/-- The lanes that are not 0, counted lane by lane (R66). -/
theorem nonZeroLanes_mk (a b c d : BitVec 8) :
    nonZeroLanes ⟨a, b, c, d⟩ = (if a ≠ 0#8 then 1 else 0) + (if b ≠ 0#8 then 1 else 0) +
      (if c ≠ 0#8 then 1 else 0) + (if d ≠ 0#8 then 1 else 0) := by
  simp only [nonZeroLanes, Lanes.toList, ← List.countP_eq_length_filter, List.countP_cons, List.countP_nil,
    decide_eq_true_eq]
  omega

/-- Each byte of the entry that is not 0 is one lane that is not 0, and there is no other (R74). -/
theorem nonZeroLanes_unpackWord (e : BitVec 16) (o : BitVec 2) :
    nonZeroLanes (laneBytes (unpackWord e o)) =
      (if entryHigh e ≠ 0#8 then 1 else 0) + (if entryLow e ≠ 0#8 then 1 else 0) := by
  obtain ⟨h0, h1, h2, h3⟩ := laneBytes_unpackWord e
  obtain rfl | rfl | rfl | rfl := offset_cases o
  · simp [h0, nonZeroLanes_mk, Nat.add_comm]
  · simp [h1, nonZeroLanes_mk, Nat.add_comm]
  · simp [h2, nonZeroLanes_mk, Nat.add_comm]
  · simp [h3, nonZeroLanes_mk]

theorem nonZeroLanes_unpackWord_le (e : BitVec 16) (o : BitVec 2) :
    nonZeroLanes (laneBytes (unpackWord e o)) ≤ 2 := by
  rw [nonZeroLanes_unpackWord]
  split_ifs <;> decide

/-- Some lane is not 0 exactly when the entry is not (R74). -/
theorem one_le_nonZeroLanes_iff (e : BitVec 16) (o : BitVec 2) :
    1 ≤ nonZeroLanes (laneBytes (unpackWord e o)) ↔ e ≠ 0#16 := by
  simp only [nonZeroLanes_unpackWord, ne_eq, entry_eq_zero_iff]
  by_cases hH : entryHigh e = 0#8
  · by_cases hL : entryLow e = 0#8 <;> simp [hH, hL]
  · simp [hH]

end Sys2Proof.Machine
end

section
/-! SUPPORT. The statements of `40_phase_rom_index_decoder.md`: the index decoder and the ROM. -/

namespace Sys2Proof.Proofs

open Sys2Proof.Machine

/-- Settles O10: `BitVec.ofInt` reduces to the remainder that is not negative, which for an unsigned value is its
low bits. -/
theorem wideIndexIsReduced : Obligations.WideIndexIsReduced :=
  ⟨fun v => ⟨reduceIndex_toNat v, rfl⟩, fun _ v _ => ⟨reduceIndex_unsigned v, reduceIndex_toNat v.toInt⟩⟩

/-- Settles O17: the lanes of an index are those of its entry, and every entry is that of some index. -/
theorem romNonzeroGivesOneOrTwoLanes : Obligations.RomNonzeroGivesOneOrTwoLanes := by
  intro P
  refine ⟨fun i => nonZeroLanes_unpackWord_le _ _, ?_, ?_⟩
  · intro h p
    have hp := (one_le_nonZeroLanes_iff _ _).mp (h (0#2 ++ p))
    rwa [decodeIndex_append] at hp
  · intro h i
    exact (one_le_nonZeroLanes_iff _ _).mpr (h (decodeIndex i).pattern)

/-- Settles O9: the two fields are `i[3:0]` and `i[5:4]`, whose numbers are the remainder and the quotient by 16. -/
theorem indexSplitsIntoPatternAndOffset : Obligations.IndexSplitsIntoPatternAndOffset := fun i =>
  ⟨decodeIndex_pattern_toNat i, decodeIndex_offset_toNat i⟩

/-- Settles O11: the read is the table's entry by definition, and an entry is its two bytes appended. -/
theorem entryPacksTwoBytes : Obligations.EntryPacksTwoBytes := fun rom p =>
  ⟨rfl, entry_toNat (romRead rom p)⟩

end Sys2Proof.Proofs
end

section
/-! SUPPORT. The unpacker as a rotation, and the byte of each lane in closed form (R72, R74). -/

namespace Sys2Proof.Machine

variable {o : BitVec 2}

/-- The adjacency of the two lanes (R74). -/
theorem laneOfLow_succ (o : BitVec 2) : (laneOfLow o + 1) % 4 = laneOfHigh o := by
  have ho : o.toNat < 4 := o.isLt
  simp only [laneOfLow, laneOfHigh]
  omega

/-- `laneOfHigh` is the lane `(3 − o) mod 4` of R72, read in the integers. -/
theorem laneOfHigh_toInt (o : BitVec 2) : (laneOfHigh o : Int) = (3 - (o.toNat : Int)) % 4 := by
  have ho : o.toNat < 4 := o.isLt
  simp only [laneOfHigh]
  omega

/-- `laneOfLow` is the lane `(2 − o) mod 4` of R72, read in the integers. -/
theorem laneOfLow_toInt (o : BitVec 2) : (laneOfLow o : Int) = (2 - (o.toNat : Int)) % 4 := by
  simp only [laneOfLow]
  omega

/-- The two low bytes of a placed entry are 0, so shifting it up by two bytes leaves nothing (R69). -/
theorem place_shiftLeft_eq_zero (e : BitVec 16) {n : Nat} (h : 16 ≤ n) : place e <<< n = 0#32 := by
  rw [place, ← BitVec.shiftLeft_add]
  exact BitVec.shiftLeft_eq_zero (by omega)

/-- Only offset 3 shifts a byte of the entry out of the word, and there `WRAP` adds what a rotation adds (R71, R72). -/
theorem unpackWord_eq_rotateRight (e : BitVec 16) (o : BitVec 2) :
    unpackWord e o = (place e).rotateRight (8 * o.toNat) := by
  by_cases ho : o = 3#2
  · subst ho; rfl
  · have hle : o.toNat ≤ 2 := by
      have hne : o.toNat ≠ 3 := fun h => ho (BitVec.eq_of_toNat_eq h)
      have hlt : o.toNat < 4 := o.isLt
      omega
    calc unpackWord e o
      _ = place e >>> (8 * o.toNat) := if_neg ho
      _ = place e >>> (8 * o.toNat) ||| place e <<< (32 - 8 * o.toNat) := by
        rw [place_shiftLeft_eq_zero e (by omega), BitVec.or_zero]
      _ = (place e).rotateRight (8 * o.toNat) := by
        rw [BitVec.rotateRight_def, Nat.mod_eq_of_lt (by omega)]

/-- What each lane carries at each offset (R72). -/
theorem laneBytes_unpackWord_get (e : BitVec 16) (o : BitVec 2) (k : Fin 4) :
    (laneBytes (unpackWord e o)).get k =
      if k.val = laneOfHigh o then entryHigh e else if k.val = laneOfLow o then entryLow e else 0#8 := by
  obtain ⟨h0, h1, h2, h3⟩ := laneBytes_unpackWord e
  obtain rfl | rfl | rfl | rfl := offset_cases o
  · rw [h0]; fin_cases k <;> rfl
  · rw [h1]; fin_cases k <;> rfl
  · rw [h2]; fin_cases k <;> rfl
  · rw [h3]; fin_cases k <;> rfl

end Sys2Proof.Machine
end

section
/-! SUPPORT. `SCALE` (R75, R76), the duty quadruple in closed form (R79), and the decoding of the next index (R80). -/

namespace Sys2Proof.Machine

variable {P : Params} {i : BitVec 6} {p : BitVec 4} {o : BitVec 2} {k : Fin 4}

@[simp] theorem scale_zero (dutyMax : Nat) : scale dutyMax 0#8 = 0 := by simp [scale]

/-- The top byte is over range (R76). -/
theorem scale_top (dutyMax : Nat) : scale dutyMax 255#8 = dutyMax + 1 :=
  Nat.mul_div_cancel_left (dutyMax + 1) (by decide)

theorem scale_mono (dutyMax : Nat) {b c : BitVec 8} (h : b.toNat ≤ c.toNat) : scale dutyMax b ≤ scale dutyMax c :=
  Nat.div_le_div_right (Nat.mul_le_mul_right _ h)

/-- Every byte below the top one is scaled into range (R76). -/
theorem scale_le_dutyMax (dutyMax : Nat) {b : BitVec 8} (h : b.toNat ≤ 254) : scale dutyMax b ≤ dutyMax := by
  have hb : b.toNat * (dutyMax + 1) < (dutyMax + 1) * 255 := by
    rw [Nat.mul_comm]
    exact Nat.mul_lt_mul_of_pos_left (by omega) dutyMax.succ_pos
  exact Nat.le_of_lt_succ ((Nat.div_lt_iff_lt_mul (by decide)).mpr hb)

/-- `SCALE` is applied to each lane's byte, and it takes 0 to 0 (R78, R79). -/
theorem quad_get (P : Params) (i : BitVec 6) (k : Fin 4) : (quad P i).get k = quadClosed P i k := by
  simp only [quad, indexBytes, Lanes.get_map, laneBytes_unpackWord_get, quadClosed, apply_ite (scale P.dutyMax),
    scale_zero]

theorem quad_get_high (hd : decodeIndex i = ⟨p, o⟩) (hk : (k.val : Int) = (3 - (o.toNat : Int)) % 4) :
    (quad P i).get k = scale P.dutyMax (entryHigh (romRead P.phaseRom p)) := by
  have hhigh : k.val = laneOfHigh o := by have := laneOfHigh_toInt o; omega
  simp only [quad_get, quadClosed, hd, if_pos hhigh]

theorem quad_get_low (hd : decodeIndex i = ⟨p, o⟩) (hk : (k.val : Int) = (2 - (o.toNat : Int)) % 4) :
    (quad P i).get k = scale P.dutyMax (entryLow (romRead P.phaseRom p)) := by
  have hhigh : k.val ≠ laneOfHigh o := by have := laneOfHigh_toInt o; omega
  have hlow : k.val = laneOfLow o := by have := laneOfLow_toInt o; omega
  simp only [quad_get, quadClosed, hd, if_neg hhigh, if_pos hlow]

theorem quad_get_rest (hd : decodeIndex i = ⟨p, o⟩)
    (hk : (k.val : Int) = (1 - (o.toNat : Int)) % 4 ∨ (k.val : Int) = (0 - (o.toNat : Int)) % 4) :
    (quad P i).get k = 0 := by
  have hhigh : k.val ≠ laneOfHigh o := by have := laneOfHigh_toInt o; omega
  have hlow : k.val ≠ laneOfLow o := by have := laneOfLow_toInt o; omega
  simp only [quad_get, quadClosed, hd, if_neg hhigh, if_neg hlow]

theorem decodedIndex_eq {d : DecodedIndex} (hp : d.pattern.toNat = p.toNat) (ho : d.offset.toNat = o.toNat) :
    d = ⟨p, o⟩ :=
  congrArg₂ DecodedIndex.mk (BitVec.eq_of_toNat_eq hp) (BitVec.eq_of_toNat_eq ho)

/-- Inside a pin offset the next index has the next entry (R80). -/
theorem decodeIndex_succ_inside (h : i.toNat % 16 < 15) :
    decodeIndex (i + 1#6) = ⟨(decodeIndex i).pattern + 1#4, (decodeIndex i).offset⟩ := by
  have hi : i.toNat < 64 := i.isLt
  have hnext : (i + 1#6).toNat = (i.toNat + 1) % 64 := BitVec.toNat_add _ _
  have hpat : ((decodeIndex i).pattern + 1#4).toNat = ((decodeIndex i).pattern.toNat + 1) % 16 := BitVec.toNat_add _ _
  apply decodedIndex_eq
  · rw [hpat, decodeIndex_pattern_toNat, decodeIndex_pattern_toNat]
    omega
  · rw [decodeIndex_offset_toNat, decodeIndex_offset_toNat]
    omega

/-- One offset further, modulo the four lanes. -/
theorem offset_succ_toNat (o : BitVec 2) : (o + 1#2).toNat = (o.toNat + 1) % 4 := BitVec.toNat_add _ _

/-- At the end of a pin offset the next index has entry 0 at the next offset (R80). -/
theorem decodeIndex_succ_end (h : i.toNat % 16 = 15) :
    decodeIndex (i + 1#6) = ⟨0#4, (decodeIndex i).offset + 1#2⟩ := by
  have hi : i.toNat < 64 := i.isLt
  have hnext : (i + 1#6).toNat = (i.toNat + 1) % 64 := BitVec.toNat_add _ _
  have hzero : (0#4).toNat = 0 := rfl
  apply decodedIndex_eq
  · rw [decodeIndex_pattern_toNat]
    omega
  · rw [offset_succ_toNat, decodeIndex_offset_toNat, decodeIndex_offset_toNat]
    omega

end Sys2Proof.Machine
end

section
/-! SUPPORT. The statements of `41_unpacker_pin_mux.md`: the rotation, the scale and the duty quadruple. -/

namespace Sys2Proof.Proofs

open Sys2Proof.Machine

/-- Settles O12: the word is the rotation, and the lanes of R72 are those of the closed form read in the integers. -/
theorem unpackerRotatesTheEntry : Obligations.UnpackerRotatesTheEntry := by
  intro e o
  refine ⟨unpackWord_eq_rotateRight e o, fun k => ?_⟩
  simp only [laneBytes_unpackWord_get, ← laneOfHigh_toInt, ← laneOfLow_toInt, Int.natCast_inj]

/-- Settles O13: the count is that of the entry's bytes, and a lane that is neither of the two carries 0. -/
theorem atMostTwoAdjacentLanes : Obligations.AtMostTwoAdjacentLanes := by
  intro e o
  refine ⟨nonZeroLanes_unpackWord e o, ?_, fun k hk => ?_, laneOfLow_succ o⟩
  · have h := one_le_nonZeroLanes_iff e o
    rw [← not_iff_not, ← ne_eq, ← h, Nat.one_le_iff_ne_zero]
  · rw [← laneOfHigh_toInt, ← laneOfLow_toInt, Int.natCast_inj, Int.natCast_inj]
    by_contra hnone
    obtain ⟨hhigh, hlow⟩ := not_or.mp hnone
    exact hk (by rw [laneBytes_unpackWord_get, if_neg hhigh, if_neg hlow])

/-- Settles O14: the floor quotient's two bounds, and the width from O15, which says what fits `DUTY_W` bits. -/
theorem scaleRange : Obligations.ScaleRange := by
  intro dutyMax b c
  have hwidth : dutyMax + 1 < 2 ^ Config.dutyWidth dutyMax := (dutyWidthIsTheLeast dutyMax _).mpr le_rfl
  exact ⟨Nat.mul_div_le _ _, Nat.lt_mul_div_succ _ (by decide), (scale_le dutyMax b).trans_lt hwidth,
    scale_mono dutyMax, scale_zero dutyMax, scale_le_dutyMax dutyMax, scale_top dutyMax⟩

/-- Settles O16: an emission writes and holds the quadruple, whose lanes have the closed form; the quadruple reads only
the ROM and `DUTY_MAX` of the parameters. -/
theorem quadrupleClosedForm : Obligations.QuadrupleClosedForm := by
  refine ⟨fun s i => ⟨mux s.pinId (quad s.params i), State.emitQuad_trace s i, fun k => ?_⟩,
    fun P Q i hrom hmax => ?_⟩
  · rw [mux_get, State.emitQuad_dutyOut, quad_get]
    exact ⟨rfl, rfl⟩
  · rw [quad, quad, hrom, hmax]

/-- Settles O18: the next index has either the next entry at the same offset or entry 0 at the next offset, and one more
in the offset moves each of the two bytes down by one lane. -/
theorem lanesWalkBetweenIndices : Obligations.LanesWalkBetweenIndices := by
  intro P i h l n z hh hl hn hz
  have hdec : decodeIndex i = ⟨(decodeIndex i).pattern, (decodeIndex i).offset⟩ := rfl
  have hoff := offset_succ_toNat (decodeIndex i).offset
  refine ⟨quad_get_high hdec hh, quad_get_low hdec hl, quad_get_rest hdec (.inl hn), quad_get_rest hdec (.inr hz),
    ?_, fun hin => ?_, fun hend => ?_⟩
  · have hcases : i.toNat % 16 < 15 ∨ i.toNat % 16 = 15 := by omega
    obtain hin | hend := hcases
    · exact quad_get_rest (decodeIndex_succ_inside hin) (.inr hz)
    · exact quad_get_rest (decodeIndex_succ_end hend) (.inl (by omega))
  · have hnext := decodeIndex_succ_inside hin
    exact ⟨quad_get_high hnext hh, quad_get_low hnext hl, quad_get_rest hnext (.inl hn)⟩
  · have hnext := decodeIndex_succ_end hend
    exact ⟨quad_get_rest hnext (.inr (by omega)), quad_get_high hnext (by omega), quad_get_low hnext (by omega)⟩

end Sys2Proof.Proofs
end

section
/-! SUPPORT. The master index after a number of strides as arithmetic modulo 64, and the indices of a command as strides
from where its sweeps begin (R82, R87 to R90, R98, R99). -/

namespace Sys2Proof.Machine

variable {m : StepMode} {d : Direction}

/-- A value reduces to the index that is its non-negative remainder modulo 64, and to no other (R63). -/
theorem reduceIndex_unique {i : BitVec 6} {v : Int} (h : (i.toNat : Int) = v % 64) : reduceIndex v = i :=
  BitVec.eq_of_toNat_eq (by exact_mod_cast (reduceIndex_toNat v).trans h.symm)

theorem reduceIndex_congr {v w : Int} (h : v % 64 = w % 64) : reduceIndex v = reduceIndex w :=
  reduceIndex_unique ((reduceIndex_toNat w).trans h.symm)

/-- Of a natural number the reduction is the remainder (R63). -/
theorem ofNat_mod_eq_reduceIndex (n : Nat) : BitVec.ofNat 6 (n % 64) = reduceIndex n :=
  (reduceIndex_unique (by simp)).symm

/-- `k` strides forward (R87, R88). -/
theorem stridesFrom_forward (m : StepMode) (start : BitVec 6) (k : Nat) :
    stridesFrom m .forward start k = reduceIndex (start.toNat + stride m * k) := by
  refine (reduceIndex_unique ?_).symm
  simp [stridesFrom]

/-- `k` strides backward (R87, R88). -/
theorem stridesFrom_backward (m : StepMode) (start : BitVec 6) (k : Nat) :
    stridesFrom m .backward start k = reduceIndex (start.toNat - stride m * k) := by
  refine (reduceIndex_unique ?_).symm
  rw [stridesFrom, BitVec.toNat_sub, BitVec.toNat_ofNat, ← Nat.cast_mul]
  omega

theorem stridesFrom_add (m : StepMode) (d : Direction) (start : BitVec 6) (k l : Nat) :
    stridesFrom m d start (k + l) = stridesFrom m d (stridesFrom m d start k) l := by
  induction l with
  | zero => rw [stridesFrom_zero, Nat.add_zero]
  | succ l ih => rw [← Nat.add_assoc, ← nextIndex_stridesFrom, ih, nextIndex_stridesFrom]

theorem nextIndex_eq_stridesFrom (m : StepMode) (d : Direction) (pos : BitVec 6) :
    nextIndex m d pos = stridesFrom m d pos 1 := by
  rw [← nextIndex_stridesFrom, stridesFrom_zero]

/-- Whole sweeps come back to their start (R99). -/
theorem stridesFrom_sweeps (m : StepMode) (d : Direction) (start : BitVec 6) (sweeps : Nat) :
    stridesFrom m d start (sweeps * sweepLen m) = start := by
  induction sweeps with
  | zero => rw [Nat.zero_mul, stridesFrom_zero]
  | succ sweeps ih => rw [Nat.succ_mul, stridesFrom_add, ih, stridesFrom_sweepLen]

/-- Inside a sweep no index comes twice (R82): fewer than n strides stay below 64. -/
theorem stridesFrom_injective {start : BitVec 6} {t u : Nat} (ht : t < sweepLen m) (hu : u < sweepLen m)
    (h : stridesFrom m d start t = stridesFrom m d start u) : t = u := by
  have hfits {k : Nat} (hk : k < sweepLen m) : stride m * k < 2 ^ 6 :=
    calc stride m * k < stride m * sweepLen m := Nat.mul_lt_mul_of_pos_left hk (stride_pos m)
      _ = 2 ^ 6 := stride_times_sweepLen m
  have hoff : BitVec.ofNat 6 (stride m * t) = BitVec.ofNat 6 (stride m * u) := by
    cases d with
    | forward => exact add_left_cancel h
    | backward => exact sub_right_injective h
  have hnat : stride m * t % 2 ^ 6 = stride m * u % 2 ^ 6 := by
    simpa only [BitVec.toNat_ofNat] using congrArg BitVec.toNat hoff
  rw [Nat.mod_eq_of_lt (hfits ht), Nat.mod_eq_of_lt (hfits hu)] at hnat
  exact Nat.eq_of_mul_eq_mul_left (stride_pos m) hnat

/-- What is missing to whole sweeps forward is what was gone backward (R98). -/
theorem stridesFrom_backward_eq_forward {k l sweeps : Nat} (h : k + l = sweeps * sweepLen m) (start : BitVec 6) :
    stridesFrom m .backward start k = stridesFrom m .forward start l := by
  rw [stridesFrom_backward, stridesFrom_forward]
  have hround : (stride m * k + stride m * l : Int) = 64 * sweeps := by
    rw [← mul_add]
    calc (stride m * (k + l) : Int) = ((stride m * sweepLen m) * sweeps : Nat) := by
          rw [Nat.mul_assoc, Nat.mul_comm (sweepLen m), ← h]; push_cast; rfl
      _ = 64 * sweeps := by rw [stride_times_sweepLen]; push_cast; rfl
  exact reduceIndex_congr (by omega)

/-- The first forward emission of a sweep that ended is index 0 (R18). -/
theorem stridesFrom_lastOfSweep (m : StepMode) : stridesFrom m .forward (lastOfSweep m) 1 = 0#6 := by
  cases m <;> decide

/-- Where the sweeps of a `STEP` begin, with `start` the value of `POS` at acceptance (R84, R89). -/
def commandStart (policy : IndexPolicy) (m : StepMode) (d : Direction) (start : BitVec 6) : BitVec 6 :=
  match policy with
  | .restart => restartPos m d
  | .persist => start

/-- Emission `t` of a `STEP` is `t + 1` strides from where its sweeps begin (R87, R88). -/
theorem commandIndex_eq_stridesFrom (policy : IndexPolicy) (m : StepMode) (d : Direction) (start : BitVec 6) (t : Nat) :
    commandIndex policy m d start t = stridesFrom m d (commandStart policy m d start) (t + 1) := by
  cases policy with
  | restart =>
    cases d with
    | forward =>
      calc BitVec.ofNat 6 (stride m * t % 64)
        _ = stridesFrom m .forward 0#6 t := by simp [ofNat_mod_eq_reduceIndex, stridesFrom_forward]
        _ = stridesFrom m .forward (lastOfSweep m) (1 + t) := by rw [stridesFrom_add, stridesFrom_lastOfSweep]
        _ = stridesFrom m .forward (lastOfSweep m) (t + 1) := by rw [Nat.add_comm]
    | backward =>
      refine Eq.trans ?_ (stridesFrom_backward m 0#6 (t + 1)).symm
      exact reduceIndex_congr (by push_cast [mul_add_one]; omega)
  | persist =>
    cases d with
    | forward => exact (ofNat_mod_eq_reduceIndex _).trans (stridesFrom_forward m start (t + 1)).symm
    | backward =>
      refine Eq.trans ?_ (stridesFrom_backward m start (t + 1)).symm
      exact reduceIndex_congr (by push_cast; omega)

end Sys2Proof.Machine
end

section
/-! SUPPORT. Runs of the machine up to the inputs they take: where the block gets to, however the ticks come (R130,
log 5). -/

namespace Sys2Proof.Machine

variable {s t u : State} {m : StepMode}

/-- The same block with other inputs due. -/
def State.withInputs (s : State) (ins : List Input) : State := { s with inputs := ins }

/-- No reset arrives at a step when none is due. -/
theorem State.NoReset.nextInput_ne_reset (h : s.NoReset) (cfg : BitVec 35) : s.nextInput ≠ .reset cfg := by
  have hdue := h cfg
  unfold State.nextInput
  split
  · nofun
  · next i rest hin =>
    rintro rfl
    exact hdue (hin ▸ List.mem_cons_self)

/-- Taking an input makes no reset due. -/
theorem State.NoReset.tail {ins : List Input} (h : (s.withInputs ins).NoReset) (t : State) :
    (t.withInputs ins.tail).NoReset :=
  fun cfg hmem => h cfg (List.mem_of_mem_tail hmem)

/-- A run that begins where another ends continues it. -/
theorem runSteps_trans {k l : Nat} {r : Result} (h : runSteps k s = .next t) (h' : runSteps l t = r) :
    runSteps (k + l) s = r := by
  induction k generalizing s with
  | zero =>
    obtain rfl := next_inj.mp h
    rwa [Nat.zero_add]
  | succ k ih =>
    rw [Nat.succ_add]
    unfold runSteps at h ⊢
    split at h
    · exact ih h
    · cases h
    · cases h

theorem runSteps_one (h : step s = .next t) : runSteps 1 s = .next t := by
  simp [runSteps, h]

/-- From `s` the block reaches `t`, whatever inputs are due, as long as no reset is among them. -/
def RunsTo (s t : State) : Prop :=
  ∀ ins, (s.withInputs ins).NoReset →
    ∃ k ins', (t.withInputs ins').NoReset ∧ runSteps k (s.withInputs ins) = .next (t.withInputs ins')

theorem RunsTo.refl (s : State) : RunsTo s s := fun ins hins => ⟨0, ins, hins, rfl⟩

theorem RunsTo.trans (h : RunsTo s t) (h' : RunsTo t u) : RunsTo s u := by
  intro ins hins
  obtain ⟨k, ins', hins', hk⟩ := h ins hins
  obtain ⟨l, ins'', hins'', hl⟩ := h' ins' hins'
  exact ⟨k + l, ins'', hins'', runSteps_trans hk hl⟩

/-- A way of the block that is open with a tick and without one, whatever inputs are due, is a run. -/
theorem RunsTo.of_blockStep (h : ∀ tick ins, BlockStep tick (s.withInputs ins) (t.withInputs ins)) : RunsTo s t := by
  intro ins hins
  obtain ⟨tick, htick⟩ := exists_tick_of_no_reset hins.nextInput_ne_reset
  exact ⟨1, ins.tail, hins.tail t, runSteps_one (step_of_blockStep htick (h tick ins.tail))⟩

/-- The end of a wait leaves the inputs alone (R92). -/
theorem endWait_withInputs (s : State) (m : StepMode) (ins : List Input) :
    (s.withInputs ins).endWait m = (s.endWait m).withInputs ins := by
  by_cases hlast : s.nextRem m = 0#32
  · rw [endWait_last hlast]
    exact endWait_last (s := s.withInputs ins) hlast
  · rw [endWait_more hlast]
    exact endWait_more (s := s.withInputs ins) hlast

theorem RunsTo.emission (hp : s.phase = .emit) (hm : s.stepMode = some m) : RunsTo s (s.emission m) :=
  .of_blockStep fun _ ins => .emit (s := s.withInputs ins) hp hm

theorem RunsTo.endWait (hp : s.phase = .wait) (ht : s.tmr = 0#32) (hm : s.stepMode = some m) :
    RunsTo s (s.endWait m) :=
  .of_blockStep fun _ ins => endWait_withInputs s m ins ▸ .waitOver (s := s.withInputs ins) hp ht hm

/-- Sooner or later a tick comes and is counted: the inputs that are due end, and after them every step has one (R91,
R130, log 5). -/
theorem RunsTo.countTick (hp : s.phase = .wait) (ht : s.tmr ≠ 0#32) : RunsTo s { s with tmr := s.tmr - 1#32 } := by
  intro ins hins
  have hcount (ins : List Input) :
      BlockStep true (s.withInputs ins) (State.withInputs { s with tmr := s.tmr - 1#32 } ins) :=
    .countTick (s := s.withInputs ins) hp ht rfl
  induction ins with
  | nil => exact ⟨1, [], hins, runSteps_one (step_of_blockStep (tick := true) rfl (hcount []))⟩
  | cons i rest ih =>
    have hrest (t : State) : (t.withInputs rest).NoReset := hins.tail t
    cases i with
    | tick => exact ⟨1, rest, hrest _, runSteps_one (step_of_blockStep (tick := true) rfl (hcount rest))⟩
    | quiet =>
      have hstay : BlockStep false (s.withInputs rest) (s.withInputs rest) := .stay (.inr (.inl ⟨hp, ht, rfl⟩))
      obtain ⟨k, ins', hins', hk⟩ := ih (hrest s)
      exact ⟨1 + k, ins', hins', runSteps_trans (runSteps_one (step_of_blockStep (tick := false) rfl hstay)) hk⟩
    | reset cfg => exact absurd (List.mem_cons_self ..) (hins cfg)

/-- A wait runs out (R91). -/
theorem RunsTo.timer (hp : s.phase = .wait) : RunsTo s { s with tmr := 0#32 } := by
  induction h : s.tmr.toNat generalizing s with
  | zero =>
    have ht : s.tmr = 0#32 := BitVec.eq_of_toNat_eq h
    rw [← ht]
    exact .refl s
  | succ n ih =>
    have ht : s.tmr ≠ 0#32 := by
      intro h0
      simp [h0] at h
    exact (RunsTo.countTick hp ht).trans (ih (s := { s with tmr := s.tmr - 1#32 }) hp (by bv_omega))

/-- One emission, its wait, and the end of it (R90 to R92). -/
def State.emissionRound (s : State) (m : StepMode) : State := State.endWait { s.emission m with tmr := 0#32 } m

theorem RunsTo.emissionRound (hp : s.phase = .emit) (hm : s.stepMode = some m) : RunsTo s (s.emissionRound m) :=
  (RunsTo.emission hp hm).trans <| (RunsTo.timer rfl).trans <|
    RunsTo.endWait (s := { s.emission m with tmr := 0#32 }) rfl rfl hm

end Sys2Proof.Machine
end

section
/-! SUPPORT. How far a `STEP` has come (R23, R86 to R88): the loop invariant over its emissions. -/

namespace Sys2Proof.Machine

variable {s t : State} {m : StepMode} {d : Direction} {N k : Nat}

/-- A count is 0 only when the operand is (R50). -/
theorem stepCount_ne_zero {arg : BitVec 32} (h : arg ≠ 0#32) : stepCount arg ≠ 0 :=
  fun hc => h (BitVec.eq_of_toInt_eq hc)

/-- The two counters together fall by one emission (R92). -/
theorem counters_endWait (hj : s.j.toNat < sweepLen m) (hrem : 1 ≤ s.rem.toNat) :
    (s.nextRem m).toNat * sweepLen m + s.j.toNat + 1 = s.rem.toNat * sweepLen m + (s.nextJ m).toNat := by
  by_cases h : s.j.toNat + 1 = sweepLen m
  · have hdown : s.rem.toNat = (s.rem - 1#32).toNat + 1 := by bv_omega
    rw [nextRem_of_sweepEnd h, nextJ_of_sweepEnd h, hdown, Nat.succ_mul, ← h, BitVec.toNat_zero]
    omega
  · rw [nextRem_inside h, nextJ_toNat_inside hj h, Nat.add_assoc]

/-- A round that is not the last (R92). -/
theorem emissionRound_more (h : s.nextRem m ≠ 0#32) :
    s.emissionRound m = { s.emission m with
      tmr := 0#32
      j := s.nextJ m
      rem := s.nextRem m
      phase := .emit
      trace := s.trace ++
        [.write4 (mux s.pinId (quad s.params (nextIndex m s.dir s.pos))), .delay s.dly.toNat] } := by
  rw [State.emissionRound, endWait_more (s := { s.emission m with tmr := 0#32 }) h, State.emission_trace,
    List.append_assoc]
  rfl

/-- The last round of a `STEP` (R92). -/
theorem emissionRound_last (h : s.nextRem m = 0#32) :
    s.emissionRound m = { s.emission m with
      tmr := 0#32
      j := s.nextJ m
      rem := 0#32
      phase := .idle
      status := setBusy s.status false
      trace := s.trace ++
        [.write4 (mux s.pinId (quad s.params (nextIndex m s.dir s.pos))), .delay s.dly.toNat] ++
        [.done .step 0#32] } := by
  rw [State.emissionRound, endWait_last (s := { s.emission m with tmr := 0#32 }) h, State.emission_trace,
    List.append_assoc, List.append_assoc]
  rfl

/-- `t` is a block about to make emission `k` of the `N` of a `STEP` that `s` accepted in direction `d` and mode `m`. -/
structure SweepProgress (s : State) (m : StepMode) (d : Direction) (N k : Nat) (t : State) : Prop where
  phase : t.phase = .emit
  stepMode : t.stepMode = some m
  dir : t.dir = d
  dly : t.dly = delay s.speed m
  j_lt : t.j.toNat < sweepLen m
  rem_pos : 1 ≤ t.rem.toNat
  /-- By the two counters `N - k` emissions are still to come (R86, R97). -/
  left : t.rem.toNat * sweepLen m + k = N + t.j.toNat
  pos : t.pos = stridesFrom m d (commandStart s.params.indexPolicy m d s.pos) k
  trace : t.trace = s.trace ++ sweepEvents s m d k
  speed : t.speed = s.speed
  mode : t.mode = s.mode
  pinId : t.pinId = s.pinId
  params : t.params = s.params
  requests : t.requests = s.requests

/-- Acceptance is the beginning (R84). -/
theorem SweepProgress.beginSweeps (hm : s.stepMode = some m) {arg : BitVec 32} (hc : stepCount arg ≠ 0) :
    SweepProgress s m (directionOf (stepCount arg)) (emissionCount m (stepCount arg)) 0
      (s.beginSweeps m (stepCount arg)) where
  phase := rfl
  stepMode := hm
  dir := rfl
  dly := rfl
  j_lt := sweepLen_pos m
  rem_pos := (Int.natAbs_pos.mpr hc).trans_eq (sweepCount_toNat arg).symm
  left := by simp [sweepCount_toNat, emissionCount]
  pos := by
    rw [stridesFrom_zero]
    rfl
  trace := by simp [sweepEvents]
  speed := rfl
  mode := rfl
  pinId := rfl
  params := rfl
  requests := rfl

theorem sweepEvents_succ (s : State) (m : StepMode) (d : Direction) (k : Nat) :
    sweepEvents s m d (k + 1) =
      sweepEvents s m d k ++ emissionEvents s m (commandIndex s.params.indexPolicy m d s.pos k) := by
  simp [sweepEvents, List.range_succ]

namespace SweepProgress

/-- The next emission is emission `k` (R87, R88). -/
theorem nextIndex_eq (h : SweepProgress s m d N k t) :
    nextIndex m t.dir t.pos = commandIndex s.params.indexPolicy m d s.pos k := by
  rw [h.dir, h.pos, nextIndex_stridesFrom, commandIndex_eq_stridesFrom]

/-- With its wait it makes the events of emission `k` (R43). -/
theorem trace_append (h : SweepProgress s m d N k t) :
    t.trace ++ [.write4 (mux t.pinId (quad t.params (nextIndex m t.dir t.pos))), .delay t.dly.toNat] =
      s.trace ++ sweepEvents s m d (k + 1) := by
  rw [h.nextIndex_eq, h.trace, h.pinId, h.params, h.dly, sweepEvents_succ, List.append_assoc]
  rfl

/-- `REM` reaches 0 at the last emission and at no other (R86, R92). -/
theorem nextRem_eq_zero_iff (h : SweepProgress s m d N k t) : t.nextRem m = 0#32 ↔ k + 1 = N := by
  have hcount := counters_endWait h.j_lt h.rem_pos
  have hleft := h.left
  constructor
  · intro hz
    rw [hz, nextJ_of_nextRem_zero h.rem_pos hz] at hcount
    rw [BitVec.toNat_zero, BitVec.toNat_zero, Nat.zero_mul] at hcount
    omega
  · intro hN
    have hlt : (t.nextRem m).toNat * sweepLen m < 1 * sweepLen m := by
      have hnext := nextJ_lt h.j_lt
      omega
    have hzero : (t.nextRem m).toNat = 0 := Nat.lt_one_iff.mp (Nat.lt_of_mul_lt_mul_right hlt)
    exact BitVec.eq_of_toNat_eq hzero

/-- An emission that is not the last leads to the next (R92). -/
theorem round (h : SweepProgress s m d N k t) (hk : k + 1 < N) :
    SweepProgress s m d N (k + 1) (t.emissionRound m) := by
  have hmore : t.nextRem m ≠ 0#32 := fun hz => hk.ne (h.nextRem_eq_zero_iff.mp hz)
  have hcount := counters_endWait h.j_lt h.rem_pos
  have hleft := h.left
  rw [emissionRound_more hmore]
  exact {
    phase := rfl
    stepMode := h.stepMode
    dir := h.dir
    dly := h.dly
    j_lt := nextJ_lt h.j_lt
    rem_pos := by
      show 1 ≤ (t.nextRem m).toNat
      bv_omega
    left := by
      show (t.nextRem m).toNat * sweepLen m + (k + 1) = N + (t.nextJ m).toNat
      omega
    pos := by rw [State.emission_pos, h.nextIndex_eq, commandIndex_eq_stridesFrom]
    trace := h.trace_append
    speed := h.speed
    mode := h.mode
    pinId := h.pinId
    params := h.params
    requests := h.requests }

/-- Every emission of the `STEP` comes. -/
theorem reaches {b : State} (h : SweepProgress s m d N 0 b) (hk : k < N) :
    ∃ t, RunsTo b t ∧ SweepProgress s m d N k t := by
  induction k with
  | zero => exact ⟨b, .refl b, h⟩
  | succ k ih =>
    obtain ⟨t, hrun, ht⟩ := ih (Nat.lt_of_succ_lt hk)
    exact ⟨t.emissionRound m, hrun.trans (.emissionRound ht.phase ht.stepMode), ht.round hk⟩

end SweepProgress

end Sys2Proof.Machine
end

section
/-! SUPPORT. Stride, sweep length and delay as the spec's arithmetic on the value of `MODE` (R81 to R83, R89). -/

namespace Sys2Proof.Machine

variable {s : State} {m : StepMode} {speed : BitVec 32}

theorem stride_eq (m : StepMode) : stride m = 16 / 2 ^ m.ordinal.toNat := by
  obtain ⟨hstride, -⟩ := Proofs.strideOfMode
  exact hstride m

theorem sweepLen_eq (m : StepMode) : sweepLen m = 4 * 2 ^ m.ordinal.toNat := by cases m <;> rfl

/-- A `MODE` of at most 4 holds a mode, whose ordinal it is (R15). -/
theorem exists_stepMode (h : s.mode.toNat ≤ 4) : ∃ m, s.stepMode = some m ∧ s.mode = m.ordinal := by
  obtain ⟨m, hm⟩ := (ofBits_isSome s.mode).mpr h
  exact ⟨m, hm, (ofBits_eq_some m s.mode).mp hm⟩

theorem toInt_eq_toNat_of_pos (h : 0 < speed.toInt) : speed.toInt = speed.toNat :=
  BitVec.toInt_eq_toNat_of_msb (msb_of_toInt_pos h)

/-- The delay of a positive `SPEED`, as an integer quotient (R83). -/
theorem delay_toNat_eq_toInt_div (h : 0 < speed.toInt) (m : StepMode) :
    ((delay speed m).toNat : Int) = speed.toInt / 2 ^ m.ordinal.toNat := by
  rw [delay_toNat h, toInt_eq_toNat_of_pos h]
  push_cast
  rfl

/-- The same quotient as a 32-bit value (R83). -/
theorem delay_eq_ofInt (h : 0 < speed.toInt) (m : StepMode) :
    delay speed m = BitVec.ofInt 32 (speed.toInt / 2 ^ m.ordinal.toNat) := by
  rw [← delay_toNat_eq_toInt_div h, BitVec.ofInt_natCast, BitVec.ofNat_toNat, BitVec.setWidth_eq]

theorem setBusy_true (v : BitVec 8) : setBusy v true = v ||| 0x01#8 := by revert v; decide

theorem setBusy_false (v : BitVec 8) : setBusy v false = v &&& 0xFE#8 := by revert v; decide

theorem lastOfSweep_eq (m : StepMode) : lastOfSweep m = BitVec.ofNat 6 ((64 - 16 / 2 ^ m.ordinal.toNat) % 64) := by
  rw [← stride_eq]
  rfl

/-- A stride is at least 1, so the remainder of R84 changes nothing. -/
theorem lastOfSweep_eq_ofNat (m : StepMode) : lastOfSweep m = BitVec.ofNat 6 (64 - stride m) := by cases m <;> rfl

/-- Where a `STEP` begins, on the sign of its count (R89). -/
theorem commandStart_directionOf (policy : IndexPolicy) (m : StepMode) (count : Int) (start : BitVec 6) :
    commandStart policy m (directionOf count) start =
      if policy = .persist then start else if count < 0 then 0#6 else lastOfSweep m := by
  cases policy with
  | persist => rfl
  | restart => by_cases h : count < 0 <;> simp [commandStart, directionOf, restartPos, h]

/-- The next index is the reduction of one stride from the last (R90). -/
theorem nextIndex_eq_reduceIndex (m : StepMode) (d : Direction) (pos : BitVec 6) :
    nextIndex m d pos = reduceIndex (match d with
      | .forward => (pos.toNat : Int) + stride m
      | .backward => (pos.toNat : Int) - stride m) := by
  rw [nextIndex_eq_stridesFrom]
  cases d with
  | forward => rw [stridesFrom_forward, Nat.cast_one, mul_one]
  | backward => rw [stridesFrom_backward, Nat.cast_one, mul_one]

end Sys2Proof.Machine
end

section
/-! SUPPORT. What no step without a reset changes (R95, R96), and that an agreeing block always has a way to step. -/

namespace Sys2Proof.Machine

variable {s t : State} {tick : Bool}

/-- No way of the block's step writes a parameter, `MODE` or `PIN_ID` (R36, R96). -/
theorem BlockStep.config_kept (hb : BlockStep tick s t) :
    t.params = s.params ∧ t.mode = s.mode ∧ t.pinId = s.pinId := by
  cases hb with
  | stay | illegalOp | modeFault | stepZero | speedFault | begin | setSpeed | getSpeed | emit | countTick =>
    exact ⟨rfl, rfl, rfl⟩
  | @waitOver m =>
    obtain ⟨hparams, hpin, hmode, -⟩ := endWait_fields s m
    exact ⟨hparams, hmode, hpin⟩

/-- While a `STEP` runs neither `SPEED` nor `DLY` is written (R95). -/
theorem BlockStep.speed_dly_of_running (hb : BlockStep tick s t) (hrun : s.Running) :
    t.speed = s.speed ∧ t.dly = s.dly := by
  cases hb with
  | illegalOp _ hi | modeFault _ hi | stepZero _ hi | speedFault _ hi | begin _ hi | setSpeed _ hi | getSpeed _ hi =>
    exact absurd hrun (not_running_of_idle hi)
  | stay | emit | countTick => exact ⟨rfl, rfl⟩
  | @waitOver m =>
    obtain ⟨-, -, -, hspeed, -, -, -, -, -, hdly, -⟩ := endWait_fields s m
    exact ⟨hspeed, hdly⟩

/-- Only `SET_SPEED` writes `SPEED` (R17). -/
theorem BlockStep.setSpeed_of_speed_ne (hb : BlockStep tick s t) (hne : t.speed ≠ s.speed) :
    s.phase = .idle ∧ ∃ value rest, s.requests = encode (.setSpeed value) :: rest ∧ t.speed = value := by
  cases hb with
  | @setSpeed cw value rest hp hr hd => exact ⟨hp, value, rest, by rw [hr, encode_of_decode hd], rfl⟩
  | stay | illegalOp | modeFault | stepZero | speedFault | begin | getSpeed | emit | countTick => exact absurd rfl hne
  | @waitOver m =>
    obtain ⟨-, -, -, hspeed, -⟩ := endWait_fields s m
    exact absurd hspeed hne

/-- Where `CFG_ERR` is 0 agreement makes `MODE` hold a mode (R20, R103). -/
theorem StateOk.exists_stepMode (h : StateOk s) (he : statusCfgErr s.status = false) : ∃ m, s.stepMode = some m :=
  (ofBits_isSome s.mode).mpr <| Nat.not_lt.mp fun hlt => by simp [h.cfgErr.mpr hlt] at he

/-- A presented command has a way (R52, R84, R93, R94). -/
theorem StateOk.exists_blockStep_of_command (h : StateOk s) {cw : BitVec 36} {rest : List (BitVec 36)} {i : Instr}
    (hp : s.phase = .idle) (hr : s.requests = cw :: rest) (hd : decode cw = .ok i) : ∃ t, BlockStep tick s t := by
  cases i with
  | step arg =>
    cases he : statusCfgErr s.status with
    | true => exact ⟨_, .modeFault rest hp hr hd he⟩
    | false =>
      by_cases hc : stepCount arg = 0
      · exact ⟨_, .stepZero rest hp hr hd he hc⟩
      · by_cases hs : s.speed.toInt ≤ 0
        · exact ⟨_, .speedFault rest hp hr hd he hc hs⟩
        · obtain ⟨m, hm⟩ := h.exists_stepMode he
          exact ⟨_, .begin rest hp hr hd he hc (not_le.mp hs) hm⟩
  | setSpeed arg => exact ⟨_, .setSpeed rest hp hr hd⟩
  | getSpeed arg => exact ⟨_, .getSpeed rest hp hr hd⟩

/-- In every phase an agreeing block has a way to step (R22). -/
theorem StateOk.exists_blockStep (h : StateOk s) : ∃ t, BlockStep tick s t := by
  cases hp : s.phase with
  | idle =>
    cases hr : s.requests with
    | nil => exact ⟨s, .stay (.inl ⟨hp, hr⟩)⟩
    | cons cw rest =>
      cases hd : decode cw with
      | ok i => exact h.exists_blockStep_of_command hp hr hd
      | error e => exact ⟨_, .illegalOp rest hp hr hd⟩
  | emit =>
    obtain ⟨m, hm, -⟩ := h.running (running_of_emit hp)
    exact ⟨_, .emit hp hm⟩
  | wait =>
    obtain ⟨m, hm, -⟩ := h.running (running_of_wait hp)
    by_cases ht : s.tmr = 0#32
    · exact ⟨_, .waitOver hp ht hm⟩
    · cases tick with
      | true => exact ⟨_, .countTick hp ht rfl⟩
      | false => exact ⟨s, .stay (.inr (.inl ⟨hp, ht, rfl⟩))⟩
  | halt => exact ⟨s, .stay (.inr (.inr hp))⟩

end Sys2Proof.Machine
end

section
/-! SUPPORT. The statements of `42_step_stride_controller.md`: the commands, the sweeps and the sequencer steps. -/

namespace Sys2Proof.Proofs

open Sys2Proof.Machine

/-- Settles O45: acceptance begins the loop, every emission comes, and the round of the last one ends in IDLE. -/
theorem stepCommandRunsToDone : Obligations.StepCommandRunsToDone := by
  intro s arg m hp he hm harg hs hreset
  have hc := stepCount_ne_zero harg
  have hN : 0 < emissionCount m (stepCount arg) := Nat.mul_pos (Int.natAbs_pos.mpr hc) (sweepLen_pos m)
  have hlast : emissionCount m (stepCount arg) - 1 + 1 = emissionCount m (stepCount arg) := Nat.sub_add_cancel hN
  obtain ⟨u, hrun, hu⟩ := (SweepProgress.beginSweeps hm hc).reaches (Nat.sub_one_lt hN.ne')
  obtain ⟨k, ins, -, hk⟩ := (hrun.trans (.emissionRound hu.phase hu.stepMode)) s.inputs hreset
  rw [emissionRound_last (hu.nextRem_eq_zero_iff.mpr hlast), hu.trace_append, hlast] at hk
  exact ⟨s.beginSweeps m (stepCount arg), _, k, execStep_begin hp he hc hs hm, hk, rfl, busy_setBusy u.status false,
    rfl, hu.nextIndex_eq, hu.speed, hu.mode, hu.pinId, hu.params, hu.requests⟩

/-- Settles O20: fewer than n strides never come back, n strides do, and emission `t` is `t` strides from emission 0. -/
theorem sweepVisitsDistinctIndices : Obligations.SweepVisitsDistinctIndices := by
  intro policy m d start
  refine ⟨sweepLen_eq m, Nat.mul_comm _ _ ▸ stride_times_sweepLen m, fun t u ht hu h => ?_, fun t => ?_⟩
  · simp only [commandIndex_eq_stridesFrom, Nat.add_comm _ 1, stridesFrom_add m d _ 1] at h
    exact stridesFrom_injective ht hu h
  · rw [commandIndex_eq_stridesFrom, commandIndex_eq_stridesFrom, Nat.add_right_comm, stridesFrom_add,
      stridesFrom_sweepLen]

/-- Settles O21: n is 4 · 2^MODE, and a quotient times its divisor is at most the dividend, or all of it. -/
theorem sweepWaitIsAtMostFourSpeeds : Obligations.SweepWaitIsAtMostFourSpeeds := by
  intro speed m hs
  have hwait : (sweepWait speed m : Int) = 4 * 2 ^ m.ordinal.toNat * (speed.toInt / 2 ^ m.ordinal.toNat) := by
    rw [sweepWait, Nat.cast_mul, delay_toNat_eq_toInt_div hs, sweepLen_eq]
    push_cast
    rfl
  refine ⟨hwait, ?_, fun hdvd => ?_⟩
  · rw [hwait, mul_assoc]
    exact Int.mul_le_mul_of_nonneg_left (Int.mul_ediv_self_le (by positivity)) (by decide)
  · rw [hwait, mul_assoc, Int.mul_ediv_cancel' hdvd]

/-- Settles O25: the checks pass, and what acceptance loads is the spec's arithmetic on `MODE` and the count. -/
theorem stepBeginsItsSweeps : Obligations.StepBeginsItsSweeps := by
  intro s arg hp he hmode harg hs
  obtain ⟨m, hm, hord⟩ := exists_stepMode hmode
  have hpow : (0 : Int) < 2 ^ s.mode.toNat := by positivity
  have hle : s.speed.toInt / 2 ^ s.mode.toNat ≤ s.speed.toInt := Int.ediv_le_self _ hs.le
  have hmax : s.speed.toInt < 2 ^ 31 := BitVec.toInt_lt
  refine ⟨?_, Int.ediv_nonneg hs.le hpow.le, by omega, Int.ediv_eq_zero_of_lt hs.le⟩
  have hdly := delay_eq_ofInt hs m
  have hstart := lastOfSweep_eq m
  rw [← hord] at hdly hstart
  rw [← hdly, ← hstart, ← commandStart_directionOf, ← setBusy_true]
  exact execStep_begin hp he (stepCount_ne_zero harg) hs hm

/-- Settles O26: an idle block stores the operand and completes. -/
theorem setSpeedStoresEveryValue : Obligations.SetSpeedStoresEveryValue := fun _ _ hp => whenIdle_idle hp

/-- Settles O27: an idle block completes with its speed. -/
theorem getSpeedAnswersTheSpeed : Obligations.GetSpeedAnswersTheSpeed := fun _ _ hp => whenIdle_idle hp

/-- The step that takes a `SET_SPEED` (R52, R93). -/
theorem step_setSpeed {s : State} {value : BitVec 32} {rest : List (BitVec 36)} (hp : s.phase = .idle)
    (hreset : s.NoReset) (hr : s.requests = encode (.setSpeed value) :: rest) :
    step s = .next { s with
      speed := value
      requests := rest
      inputs := s.inputs.tail
      trace := s.trace ++ [.done .setSpeed 0#32] } :=
  (stepRunsTheDecodedCommand s _ rest _ hp hreset.nextInput_ne_reset hr (decode_encode _)).trans
    (setSpeedStoresEveryValue _ value hp)

/-- The step that takes a `GET_SPEED` (R52, R94). -/
theorem step_getSpeed {s : State} {arg : BitVec 32} {rest : List (BitVec 36)} (hp : s.phase = .idle)
    (hreset : s.NoReset) (hr : s.requests = encode (.getSpeed arg) :: rest) :
    step s = .next { s with
      requests := rest
      inputs := s.inputs.tail
      trace := s.trace ++ [.done .getSpeed s.speed] } :=
  (stepRunsTheDecodedCommand s _ rest _ hp hreset.nextInput_ne_reset hr (decode_encode _)).trans
    (getSpeedAnswersTheSpeed _ arg hp)

/-- Settles O28: each step takes one word, and the second finds the speed that the first stored. -/
theorem speedSetIsReadBack : Obligations.SpeedSetIsReadBack := by
  intro s value arg rest hp hreset hr
  have hset := step_setSpeed hp hreset hr
  have hget := step_getSpeed (s := { s with
    speed := value
    requests := encode (.getSpeed arg) :: rest
    inputs := s.inputs.tail
    trace := s.trace ++ [.done .setSpeed 0#32] }) hp (hreset.tail s) rfl
  rw [runSteps_trans (runSteps_one hset) (runSteps_one hget)]
  simp [← List.drop_one]

/-- Settles O32: the next index is that arithmetic, and EMIT has one way to step. -/
theorem emitStepEmitsTheNextIndex : Obligations.EmitStepEmitsTheNextIndex := by
  intro s i hp hi hmode hidx
  obtain ⟨m, hm, hord⟩ := exists_stepMode hmode
  obtain ⟨tick, htick⟩ := exists_tick_of_no_reset hi
  have hstride : (16 / 2 ^ s.mode.toNat : Int) = stride m := by
    rw [stride_eq, hord]
    push_cast
    rfl
  rw [hstride] at hidx
  obtain rfl : nextIndex m s.dir s.pos = i := (nextIndex_eq_reduceIndex m s.dir s.pos).trans (reduceIndex_unique hidx)
  exact step_of_blockStep htick (.emit (s := s.takeInput) hp hm)

/-- Settles O34: the last wait and any other, with the counters' comparison on n as 4 · 2^MODE. -/
theorem waitEndsAndCounts : Obligations.WaitEndsAndCounts := by
  intro s j' rem' hp ht hi hmode hj hrem
  obtain ⟨m, hm, hord⟩ := exists_stepMode hmode
  obtain ⟨tick, htick⟩ := exists_tick_of_no_reset hi
  rw [hord, ← sweepLen_eq] at hj hrem
  change j' = s.nextJ m at hj
  change rem' = s.nextRem m at hrem
  subst hj hrem
  rw [step_of_blockStep htick (.waitOver (s := s.takeInput) hp ht hm), ← setBusy_false]
  refine ⟨fun hlast => ?_, fun hmore => ?_⟩
  · rw [endWait_last (s := s.takeInput) hlast, hlast]
    rfl
  · rw [endWait_more (s := s.takeInput) hmore]
    rfl

/-- Settles O38: a construction writes `MODE` and `PIN_ID`, the block's own ways write none of these. -/
theorem configurationIsFixedBetweenResets : Obligations.ConfigurationIsFixedBetweenResets := by
  intro s t h
  obtain ⟨cfg, hcfg, rfl⟩ | ⟨tick, hb⟩ := step_construct_or_blockStep h
  · exact ⟨rfl, fun hi => absurd hcfg (hi cfg)⟩
  · obtain ⟨hparams, hmode, hpin⟩ := hb.config_kept
    exact ⟨hparams, fun _ => ⟨hmode, hpin⟩⟩

/-- Settles O40: no way open to a running block writes the two registers, and one way writes `SPEED` at all. -/
theorem speedIsFixedWhileAStepRuns : Obligations.SpeedIsFixedWhileAStepRuns := by
  intro s t hi h
  obtain ⟨tick, hb⟩ := blockStep_of_no_reset hi h
  exact ⟨hb.speed_dly_of_running, hb.setSpeed_of_speed_ne⟩

/-- Settles O44: a reset is always taken, and without one an agreeing block has a way to step. -/
theorem agreeingStateNeverStops : Obligations.AgreeingStateNeverStops := by
  intro s h
  by_cases hi : ∃ cfg, s.nextInput = .reset cfg
  · obtain ⟨cfg, hcfg⟩ := hi
    exact ⟨_, step_of_reset hcfg⟩
  · obtain ⟨tick, htick⟩ := exists_tick_of_no_reset (not_exists.mp hi)
    obtain ⟨t, hb⟩ := (h.withOutside s.requests s.inputs.tail).exists_blockStep (tick := tick)
    exact ⟨t, step_of_blockStep htick hb⟩

/-- Settles O46: the last emission closes whole sweeps, so it is where they began. -/
theorem indexAfterACommand : Obligations.IndexAfterACommand := by
  intro policy m count start hc
  have hN : 0 < emissionCount m count := Nat.mul_pos (Int.natAbs_pos.mpr hc) (sweepLen_pos m)
  rw [commandIndex_eq_stridesFrom, Nat.sub_add_cancel hN, emissionCount, stridesFrom_sweeps, commandStart_directionOf]
  cases policy with
  | persist => rfl
  | restart => rw [lastOfSweep_eq_ofNat]; rfl

/-- Settles O48: what a backward command has gone is what the forward one has still to go; a forward sweep under
`RESTART` begins one stride before 0. -/
theorem backwardCommandRetracesTheForwardOne : Obligations.BackwardCommandRetracesTheForwardOne := by
  intro m sweeps t start ht
  simp only [commandIndex_eq_stridesFrom]
  refine ⟨?_, fun ht' => ?_, ?_⟩
  · show stridesFrom m .backward 0#6 (t + 1) = stridesFrom m .forward (lastOfSweep m) (sweeps * sweepLen m - 1 - t + 1)
    rw [Nat.add_comm (_ - t) 1, stridesFrom_add m .forward, stridesFrom_lastOfSweep]
    exact stridesFrom_backward_eq_forward (sweeps := sweeps) (by omega) 0#6
  · exact stridesFrom_backward_eq_forward (sweeps := sweeps) (by omega) start
  · rw [Nat.sub_add_cancel (Nat.zero_lt_of_lt ht)]
    exact stridesFrom_sweeps m .backward start sweeps

/-- Settles O23: the first two checks of a `STEP` decide a count of 0. -/
theorem stepZeroIsANoOp : Obligations.StepZeroIsANoOp := fun _ hp =>
  ⟨fun he => execStep_zero hp he rfl, fun he => ⟨_, execStep_modeFault hp he, rfl, rfl⟩⟩

/-- Settles O33: a tick is counted, and without one the block stays. -/
theorem waitCountsTicks : Obligations.WaitCountsTicks := fun s hp ht =>
  ⟨fun hi => step_of_blockStep (tick := true) hi (.countTick (s := s.takeInput) hp ht rfl),
    fun hi => step_of_blockStep (tick := false) hi (.stay (.inr (.inl ⟨hp, ht, rfl⟩)))⟩

end Sys2Proof.Proofs
end

section
/-! SUPPORT. HALT (R104, R107), the `STATUS` of the two faults of a `STEP` (R103, R105), and a tick outside WAIT (R108). -/

namespace Sys2Proof.Machine

variable {s : State}

/-- In HALT an input that is not a reset is taken, and the block stays as it is (R104). -/
theorem step_halt (hp : s.phase = .halt) (hi : ∀ cfg, s.nextInput ≠ .reset cfg) : step s = .next s.takeInput := by
  obtain ⟨tick, htick⟩ := exists_tick_of_no_reset hi
  exact step_of_blockStep htick (.stay (.inr (.inr hp)))

theorem faultStatus_mode (v : BitVec 8) (mode : BitVec 3) :
    faultStatus v (.mode mode) = (v &&& 0x0A#8) ||| 0x24#8 := by
  simp [faultStatus_eq, FaultCause.code, BitVec.or_assoc]

theorem faultStatus_speed (v : BitVec 8) (speed : BitVec 32) :
    faultStatus v (.speed speed) = (v &&& 0x0A#8) ||| 0x34#8 := by
  simp [faultStatus_eq, FaultCause.code, BitVec.or_assoc]

/-- WAIT alone looks at the tick (R108). -/
theorem advance_tick_eq (hp : s.phase ≠ .wait) : advance true s = advance false s := by
  cases h : s.phase with
  | idle => rw [advance_idle h, advance_idle h]
  | emit => rw [advance_emit h, advance_emit h]
  | wait => exact absurd h hp
  | halt => rw [advance_halt h, advance_halt h]

end Sys2Proof.Machine
end

section
/-! SUPPORT. The statements of `60_exceptions.md`: the faults, the halt and the tick. -/

namespace Sys2Proof.Proofs

open Sys2Proof.Machine

/-- Settles O31: a reset is a construction, whose `STATUS` has neither FAULT nor a cause; any other step only takes its
input. -/
theorem onlyResetLeavesHalt : Obligations.OnlyResetLeavesHalt := by
  intro s t hp h
  refine ⟨fun ⟨cfg, hcfg⟩ => ?_, fun hi => ?_⟩
  · obtain rfl := next_inj.mp ((step_of_reset hcfg).symm.trans h)
    obtain ⟨-, hfault, hcause, -, -⟩ := resetStatus_fields (cfgMode cfg)
    exact ⟨rfl, hfault, hcause⟩
  · obtain rfl := next_inj.mp ((step_halt hp hi).symm.trans h)
    exact ⟨hp, rfl, rfl⟩

/-- Settles O22: the first check of a `STEP`, and the `STATUS` of its fault. -/
theorem stepInIllegalModeFaults : Obligations.StepInIllegalModeFaults := by
  intro s arg hp he
  rw [← faultStatus_mode s.status s.mode]
  exact execStep_modeFault hp he

/-- Settles O24: the third check of a `STEP`, since only the operand 0 is the count 0, and the `STATUS` of its fault. -/
theorem stepWithoutSpeedFaults : Obligations.StepWithoutSpeedFaults := by
  intro s arg hp he harg hs
  rw [← faultStatus_speed s.status s.speed]
  exact execStep_speedFault hp he (stepCount_ne_zero harg) hs

/-- Settles O30: fault entry writes the closed form of its `STATUS`, and HALT stays as it is. -/
theorem faultEntryHalts : Obligations.FaultEntryHalts := by
  intro s c
  refine ⟨?_, rfl, fun t hp hi => step_halt hp hi⟩
  rw [← faultStatus_eq]
  rfl

/-- Settles O36: both steps leave the same inputs due, and outside WAIT the block does not look at the tick. -/
theorem tickMattersInWaitOnly : Obligations.TickMattersInWaitOnly := fun s rest hp =>
  advance_tick_eq (s := { s with inputs := rest }) hp

end Sys2Proof.Proofs
end

section
/-! SUPPORT. The index that reset loads (R27, R116), and the first and the last index of a `STEP` (R99, R124). -/

namespace Sys2Proof.Machine

/-- Reset in a legal mode puts the index one stride before 0 (R18, R27). -/
theorem resetPos_toNat_of_legal {mode : BitVec 3} (h : mode.toNat ≤ 4) :
    (resetPos mode).toNat = (64 - 16 / 2 ^ mode.toNat) % 64 := by
  obtain ⟨m, hm⟩ := (ofBits_isSome mode).mpr h
  obtain rfl := (ofBits_eq_some m mode).mp hm
  calc (resetPos m.ordinal).toNat = (lastOfSweep m).toNat := by rw [resetPos, hm]
    _ = (64 - 16 / 2 ^ m.ordinal.toNat) % 64 := by rw [lastOfSweep_eq, BitVec.toNat_ofNat, Nat.mod_mod]

/-- Reset in a mode above 4, where no stride is defined, puts the index at 0 (R27). -/
theorem resetPos_of_illegal {mode : BitVec 3} (h : 4 < mode.toNat) : resetPos mode = 0#6 := by
  have hnone : StepMode.ofBits mode = none := Option.eq_none_iff_forall_ne_some.mpr fun m hm =>
    Nat.not_lt.mpr ((ofBits_isSome mode).mp ⟨m, hm⟩) h
  rw [resetPos, hnone]

/-- The first emission is one stride from where the sweeps begin (R87, R88). -/
theorem commandIndex_first (policy : IndexPolicy) (m : StepMode) (d : Direction) (start : BitVec 6) :
    commandIndex policy m d start 0 = nextIndex m d (commandStart policy m d start) := by
  rw [commandIndex_eq_stridesFrom, nextIndex_eq_stridesFrom]

/-- The last emission of whole sweeps is where they began (R99). -/
theorem commandIndex_last {sweeps : Nat} (h : 0 < sweeps) (policy : IndexPolicy) (m : StepMode) (d : Direction)
    (start : BitVec 6) :
    commandIndex policy m d start (sweeps * sweepLen m - 1) = commandStart policy m d start := by
  rw [commandIndex_eq_stridesFrom, Nat.sub_add_cancel (Nat.mul_pos h (sweepLen_pos m)), stridesFrom_sweeps]

theorem one_lt_sweepLen (m : StepMode) : 1 < sweepLen m := by cases m <;> decide

/-- One stride always leaves the index it starts from, since a sweep is longer than that (R82). -/
theorem nextIndex_ne (m : StepMode) (d : Direction) (pos : BitVec 6) : nextIndex m d pos ≠ pos := by
  intro h
  rw [nextIndex_eq_stridesFrom] at h
  have hback : stridesFrom m d pos 1 = stridesFrom m d pos 0 := h.trans (stridesFrom_zero m d pos).symm
  exact one_ne_zero (stridesFrom_injective (one_lt_sweepLen m) (sweepLen_pos m) hback)

/-- Under `RESTART` a forward `STEP` emits index 0 first, where a backward one begins and ends (R89, R124). -/
theorem nextIndex_forward_restartPos (m : StepMode) : nextIndex m .forward (restartPos m .forward) = 0#6 :=
  (nextIndex_eq_stridesFrom m .forward _).trans (stridesFrom_lastOfSweep m)

/-- Under `RESTART` a backward `STEP` first emits the index where a forward one begins and ends (R89, R124). -/
theorem nextIndex_backward_restartPos (m : StepMode) : nextIndex m .backward (restartPos m .backward) = lastOfSweep m :=
  calc 0#6 - BitVec.ofNat 6 (stride m)
    _ = lastOfSweep m + BitVec.ofNat 6 (stride m) - BitVec.ofNat 6 (stride m) :=
        congrArg (· - BitVec.ofNat 6 (stride m)) (nextIndex_forward_restartPos m).symm
    _ = lastOfSweep m := add_sub_cancel_right _ _

end Sys2Proof.Machine
end

section
/-! SUPPORT. The statements of `70_reset_and_hazards.md`: the reset and the reversal. -/

namespace Sys2Proof.Proofs

open Sys2Proof.Machine

/-- Settles O1: the step is a construction from the fields of the configuration word; its `POS` is that of a legal or of
an illegal mode, and every other clause is a field the construction writes or keeps. -/
theorem resetConstructsTheBlock : Obligations.ResetConstructsTheBlock := fun _ _ hi =>
  ⟨_, step_of_reset hi, rfl, rfl, rfl, resetPos_toNat_of_legal, resetPos_of_illegal,
    rfl, rfl, rfl, rfl, rfl, rfl, rfl, rfl, rfl, rfl⟩

/-- Settles O47: a command ends where its sweeps began and its successor's first index is one stride from its own
beginning. Under `RESTART` the two directions begin one stride apart, under `PERSIST` the successor begins where the
command ended. -/
theorem reversalRepeatsUnderRestartOnly : Obligations.ReversalRepeatsUnderRestartOnly := by
  intro m sweeps start hs
  simp only [commandIndex_last hs, commandIndex_first]
  refine ⟨fun a b => ⟨?_, ?_, rfl, rfl⟩, fun d e => nextIndex_ne m e start⟩
  · exact (nextIndex_backward_restartPos m).symm
  · exact (nextIndex_forward_restartPos m).symm

end Sys2Proof.Proofs
end
